-- ==== Sys2Proof/Word.lean ====
section
/-! DEFINITION. The bit-vector types of PONGCORE: register words, bytes and command words. -/

namespace Sys2Proof

/-- A response word or an immediate: 16 bits whatever the register width is (30_encoding.md R91, R93). -/
abbrev Word := BitVec 16

/-- A byte of a memory, of the serial channel, or an operand byte (20_memory.md R62, 30_encoding.md R90). -/
abbrev Byte := BitVec 8

/-- A command word `cmd[39:0]` (30_encoding.md R90). -/
abbrev Command := BitVec 40

end Sys2Proof
end

