-- ==== Sys2Proof/Syntax.lean ====
section
/-! DEFINITION. The commands of PONGCORE, one constructor per row of spec/opcode_table.json, with the operands of
30_encoding.md R91 and R92 as data. -/

namespace Sys2Proof

/-- A side, a paddle or a score counter: LEFT = 0, RIGHT = 1 (00_scope.md R15, "Side"). -/
inductive Side where
  | left
  | right
  deriving DecidableEq, Repr

/-- The commands (30_encoding.md R92). Coordinates, byte values and indices are whole operand bytes, `imm` is
`imm16 = {c, d}`, a paddle or side select is `a[0]` (R91). -/
inductive Instr where
  | nop
  | tickon
  | tickoff
  | step
  | bounce (p : Side)
  | walls
  | tick
  | serve
  | rdb (r : Byte)
  | wrb (r : Byte) (imm : Word)
  | sety (p : Side) (imm : Word)
  | gety (p : Side)
  | rdp (p : Side) (f : Byte)
  | wrp (p : Side) (f : Byte) (imm : Word)
  | regpt (s : Side)
  | chkpt
  | rdsc (s : Side)
  | pxset (x y : Byte)
  | pxclr (x y : Byte)
  | pxtog (x y : Byte)
  | lineset (x0 y0 x1 y1 : Byte)
  | lineclr (x0 y0 x1 y1 : Byte)
  | linetog (x0 y0 x1 y1 : Byte)
  | block (x y v : Byte)
  | glyph (x y ch : Byte)
  | fbclr
  | rdfb (imm : Word)
  | rfall
  | rfpx (x y : Byte)
  | rfreg (x0 y0 x1 y1 : Byte)
  | txcmd (v : Byte)
  | txdat (v : Byte)
  | dinit
  deriving DecidableEq, Repr

end Sys2Proof
end

