-- ==== Sys2Proof/Decode.lean ====
section
/-! DEFINITION. Decoding a 40-bit command word, and encoding a command (30_encoding.md R90 to R96). The decoder is
total; the only words it rejects are those with a reserved opcode (R94), by name. -/

namespace Sys2Proof

/-- Why a word is no command of the table: its opcode is reserved (30_encoding.md R94). The machine still executes
such a word, as R94 says (`Machine.execReserved`). -/
inductive DecodeReject where
  | reservedOpcode (op : Byte)
  deriving DecidableEq, Repr

/-- The field `op`, bits 39:32 of a command word (R90). -/
def opField (w : Command) : Byte := w.extractLsb' 32 8

/-- The operand byte `a`, bits 31:24 (R90). -/
def aField (w : Command) : Byte := w.extractLsb' 24 8

/-- The operand byte `b`, bits 23:16 (R90). -/
def bField (w : Command) : Byte := w.extractLsb' 16 8

/-- The operand byte `c`, bits 15:8 (R90). -/
def cField (w : Command) : Byte := w.extractLsb' 8 8

/-- The operand byte `d`, bits 7:0 (R90). -/
def dField (w : Command) : Byte := w.extractLsb' 0 8

/-- `imm16 = {c, d} = cmd[15:0]` (R91). -/
def immField (w : Command) : Word := w.extractLsb' 0 16

/-- A paddle or side select byte: only bit 0 counts, 0 = LEFT, 1 = RIGHT (R91). -/
def sideOfByte (a : Byte) : Side := if a.getLsbD 0 then .right else .left

/-- The select `a[0]` of a command word (R91). -/
def sideField (w : Command) : Side := sideOfByte (aField w)

/-- The decoder: the opcode map of R92, the operand fields of R91; every other opcode is reserved (R94). -/
def decode (w : Command) : Except DecodeReject Instr :=
  match (opField w).toNat with
  | 0x00 => .ok .nop
  | 0x01 => .ok .tickon
  | 0x02 => .ok .tickoff
  | 0x10 => .ok .step
  | 0x11 => .ok (.bounce (sideField w))
  | 0x12 => .ok .walls
  | 0x13 => .ok .tick
  | 0x14 => .ok .serve
  | 0x18 => .ok (.rdb (aField w))
  | 0x19 => .ok (.wrb (aField w) (immField w))
  | 0x20 => .ok (.sety (sideField w) (immField w))
  | 0x21 => .ok (.gety (sideField w))
  | 0x28 => .ok (.rdp (sideField w) (bField w))
  | 0x29 => .ok (.wrp (sideField w) (bField w) (immField w))
  | 0x30 => .ok (.regpt (sideField w))
  | 0x31 => .ok .chkpt
  | 0x38 => .ok (.rdsc (sideField w))
  | 0x40 => .ok (.pxset (aField w) (bField w))
  | 0x41 => .ok (.pxclr (aField w) (bField w))
  | 0x42 => .ok (.pxtog (aField w) (bField w))
  | 0x44 => .ok (.lineset (aField w) (bField w) (cField w) (dField w))
  | 0x45 => .ok (.lineclr (aField w) (bField w) (cField w) (dField w))
  | 0x46 => .ok (.linetog (aField w) (bField w) (cField w) (dField w))
  | 0x48 => .ok (.block (aField w) (bField w) (cField w))
  | 0x49 => .ok (.glyph (aField w) (bField w) (cField w))
  | 0x4A => .ok .fbclr
  | 0x4B => .ok (.rdfb (immField w))
  | 0x50 => .ok .rfall
  | 0x51 => .ok (.rfpx (aField w) (bField w))
  | 0x52 => .ok (.rfreg (aField w) (bField w) (cField w) (dField w))
  | 0x53 => .ok (.txcmd (aField w))
  | 0x54 => .ok (.txdat (aField w))
  | 0x55 => .ok .dinit
  | _ => .error (.reservedOpcode (opField w))

/-- A command word from its five fields (R90). -/
def pack (op a b c d : Byte) : Command := op ++ a ++ b ++ c ++ d

/-- The operand byte a select is written as; the ignored bits are assembled as 0 (R96). -/
def sideByte : Side → Byte
  | .left => 0
  | .right => 1

/-- The byte `c` of an immediate, its upper half (R91). -/
def immHigh (imm : Word) : Byte := imm.extractLsb' 8 8

/-- The byte `d` of an immediate, its lower half (R91). -/
def immLow (imm : Word) : Byte := imm.extractLsb' 0 8

/-- The opcode of a command (R92). -/
def opcode : Instr → Byte
  | .nop => 0x00
  | .tickon => 0x01
  | .tickoff => 0x02
  | .step => 0x10
  | .bounce _ => 0x11
  | .walls => 0x12
  | .tick => 0x13
  | .serve => 0x14
  | .rdb _ => 0x18
  | .wrb _ _ => 0x19
  | .sety _ _ => 0x20
  | .gety _ => 0x21
  | .rdp _ _ => 0x28
  | .wrp _ _ _ => 0x29
  | .regpt _ => 0x30
  | .chkpt => 0x31
  | .rdsc _ => 0x38
  | .pxset _ _ => 0x40
  | .pxclr _ _ => 0x41
  | .pxtog _ _ => 0x42
  | .lineset _ _ _ _ => 0x44
  | .lineclr _ _ _ _ => 0x45
  | .linetog _ _ _ _ => 0x46
  | .block _ _ _ => 0x48
  | .glyph _ _ _ => 0x49
  | .fbclr => 0x4A
  | .rdfb _ => 0x4B
  | .rfall => 0x50
  | .rfpx _ _ => 0x51
  | .rfreg _ _ _ _ => 0x52
  | .txcmd _ => 0x53
  | .txdat _ => 0x54
  | .dinit => 0x55

/-- The encoder: `op a b c d`, unused operand bytes assembled as 0 (R90, R91, R92, R96). -/
def encode : Instr → Command
  | .bounce p => pack (opcode (.bounce p)) (sideByte p) 0 0 0
  | .rdb r => pack (opcode (.rdb r)) r 0 0 0
  | .wrb r imm => pack (opcode (.wrb r imm)) r 0 (immHigh imm) (immLow imm)
  | .sety p imm => pack (opcode (.sety p imm)) (sideByte p) 0 (immHigh imm) (immLow imm)
  | .gety p => pack (opcode (.gety p)) (sideByte p) 0 0 0
  | .rdp p f => pack (opcode (.rdp p f)) (sideByte p) f 0 0
  | .wrp p f imm => pack (opcode (.wrp p f imm)) (sideByte p) f (immHigh imm) (immLow imm)
  | .regpt s => pack (opcode (.regpt s)) (sideByte s) 0 0 0
  | .rdsc s => pack (opcode (.rdsc s)) (sideByte s) 0 0 0
  | .pxset x y => pack (opcode (.pxset x y)) x y 0 0
  | .pxclr x y => pack (opcode (.pxclr x y)) x y 0 0
  | .pxtog x y => pack (opcode (.pxtog x y)) x y 0 0
  | .lineset x0 y0 x1 y1 => pack (opcode (.lineset x0 y0 x1 y1)) x0 y0 x1 y1
  | .lineclr x0 y0 x1 y1 => pack (opcode (.lineclr x0 y0 x1 y1)) x0 y0 x1 y1
  | .linetog x0 y0 x1 y1 => pack (opcode (.linetog x0 y0 x1 y1)) x0 y0 x1 y1
  | .block x y v => pack (opcode (.block x y v)) x y v 0
  | .glyph x y ch => pack (opcode (.glyph x y ch)) x y ch 0
  | .rdfb imm => pack (opcode (.rdfb imm)) 0 0 (immHigh imm) (immLow imm)
  | .rfpx x y => pack (opcode (.rfpx x y)) x y 0 0
  | .rfreg x0 y0 x1 y1 => pack (opcode (.rfreg x0 y0 x1 y1)) x0 y0 x1 y1
  | .txcmd v => pack (opcode (.txcmd v)) v 0 0 0
  | .txdat v => pack (opcode (.txdat v)) v 0 0 0
  | .nop => pack (opcode .nop) 0 0 0 0
  | .tickon => pack (opcode .tickon) 0 0 0 0
  | .tickoff => pack (opcode .tickoff) 0 0 0 0
  | .step => pack (opcode .step) 0 0 0 0
  | .walls => pack (opcode .walls) 0 0 0 0
  | .tick => pack (opcode .tick) 0 0 0 0
  | .serve => pack (opcode .serve) 0 0 0 0
  | .chkpt => pack (opcode .chkpt) 0 0 0 0
  | .fbclr => pack (opcode .fbclr) 0 0 0 0
  | .rfall => pack (opcode .rfall) 0 0 0 0
  | .dinit => pack (opcode .dinit) 0 0 0 0

/-- The command word whose bits are `w`, of which the table gives `nbits`; the bits above are 0. Bit 0 is bit 0 of
`cmd`, as spec/opcode_table.json numbers them (30_encoding.md R90, R92). -/
def commandOfTableWord (nbits w : Nat) : Command := BitVec.ofNat 40 (w % 2 ^ nbits)

/-- The command the decoder reads from a table word; none where it rejects it. -/
def decodeTableWord (nbits w : Nat) : Option Instr := (decode (commandOfTableWord nbits w)).toOption

end Sys2Proof
end

