-- ==== Sys2Proof/Config.lean ====
section
/-! DEFINITION. The parameters of PONGCORE: those the source fixes as constants (00_scope.md R6), those it leaves open
as fields of `Config` with the spec's defaults, the register width W among them (R7, R113, R114), and the values the spec leaves free as constants
without a body (log 2, 3, 11, 12, 17). -/

namespace Sys2Proof

/-! ### Fixed by the source (00_scope.md R6) -/

/-- SUBPIXEL: ball position units per pixel. -/
abbrev subpixel : Int := 128
/-- SPEED_SCALE. -/
abbrev speedScale : Int := 3
/-- INTEG_DIV: velocity is divided by it per integration step. -/
abbrev integDiv : Int := 64
/-- SPIN_DECAY_DIV = 128 × SPEED_SCALE = 384. -/
abbrev spinDecayDiv : Int := 128 * speedScale
/-- SPIN_COUPLE_DIV = 16 × SPEED_SCALE = 48. -/
abbrev spinCoupleDiv : Int := 16 * speedScale
/-- VY_DECAY_DIV = 64 × SPEED_SCALE = 192. -/
abbrev vyDecayDiv : Int := 64 * speedScale
/-- X_LIMIT: right exit at or beyond it. -/
abbrev xLimit : Int := 16384
/-- Y_LIMIT: the vertical range is `[0, Y_LIMIT)`. -/
abbrev yLimit : Int := 8192
/-- HIT_TOP_OFFSET: the hit-box top row is the paddle row minus it. -/
abbrev hitTopOffset : Int := 4
/-- HIT_HEIGHT: rows of the hit-box. -/
abbrev hitHeight : Int := 8
/-- PADDLE_SHIFT: a paddle position is shifted right by it to give a pixel row. -/
abbrev paddleShift : Nat := 4
/-- SERVE_X_RIGHT = 126 × 128. -/
abbrev serveXRight : Int := 126 * 128
/-- FB_WIDTH: framebuffer width in pixels. -/
abbrev fbWidth : Nat := 128
/-- FB_HEIGHT: framebuffer height in pixels. -/
abbrev fbHeight : Nat := 64
/-- PAGE_H: pixel rows per page. -/
abbrev pageHeight : Nat := 8
/-- N_PAGES = FB_HEIGHT / PAGE_H. -/
abbrev numPages : Nat := 8
/-- FB_BYTES: bytes of the framebuffer, and of GDDRAM. -/
abbrev fbBytes : Nat := 1024
/-- GLYPH_W: columns of a glyph. -/
abbrev glyphWidth : Nat := 5
/-- SCORE_FLAG: mask of the PEND bit of a score register. -/
abbrev scoreFlag : Byte := 0x80
/-- SCORE_COUNT: mask of the count of a score register. -/
abbrev scoreCountMask : Byte := 0x7F
/-- TICK_HZ, nominal; used by no rule (92_eei_decisions.md D40; log 28). -/
abbrev tickHz : Nat := 60

/-! ### Left open by the source (00_scope.md R7) -/

/-- OPC_*: the display controller's command bytes, defaults of 30_encoding.md R113. -/
structure Opcodes where
  displayOff : Byte := 0xAE
  displayOn : Byte := 0xAF
  contrast : Byte := 0x81
  segRemap0 : Byte := 0xA0
  segRemap1 : Byte := 0xA1
  comScanInc : Byte := 0xC0
  comScanDec : Byte := 0xC8
  muxRatio : Byte := 0xA8
  addrMode : Byte := 0x20
  chargePump : Byte := 0x8D
  colAddr : Byte := 0x21
  pageAddr : Byte := 0x22
  deriving DecidableEq, Repr

/-- The values of 30_encoding.md R113. -/
def Opcodes.standard : Opcodes := {}

/-- DINIT_SEQ, the 12 bytes of 30_encoding.md R114. -/
def standardInitSequence : List Byte :=
  [0xAE, 0x81, 0x7F, 0xA1, 0xC8, 0xA8, 0x3F, 0x20, 0x00, 0x8D, 0x14, 0xAF]

/-- The configuration: the parameters of R7 with its defaults (D10 to D31), and where `rst` is wired (70 R320). No
command changes it (00_scope.md R8, R16). Velocities, positions and gains are integers; a rule that stores one in a
register wraps it to `width` bits (R11). FONT is `Config.font`. -/
structure Config where
  /-- W, the register width of ball and paddle registers in bits -/
  width : Nat := 16
  /-- INIT_SPEED, velocity units -/
  initSpeed : Int := 3072
  /-- SERVE_X_LEFT, subpixels -/
  serveXLeft : Int := 256
  /-- SERVE_Y, subpixels -/
  serveY : Int := 4096
  /-- PADDLE_X[0], a pixel column 0..127 -/
  paddleX0 : BitVec 7 := 1
  /-- PADDLE_X[1], a pixel column 0..127 -/
  paddleX1 : BitVec 7 := 126
  /-- PADDLE_INIT_POS, sample units -/
  paddleInitPos : Int := 512
  /-- KICK_MAG[0], at the hit-box edges -/
  kickMag0 : Int := 768
  /-- KICK_MAG[1] -/
  kickMag1 : Int := 1536
  /-- KICK_MAG[2] -/
  kickMag2 : Int := 2304
  /-- KICK_MAG[3], at the hit-box centre -/
  kickMag3 : Int := 3072
  /-- SPIN_GAIN -/
  spinGain : Int := 24
  /-- ENGLISH_GAIN -/
  englishGain : Int := 48
  /-- OPC_* -/
  opc : Opcodes := Opcodes.standard
  /-- DINIT_SEQ -/
  dinitSeq : List Byte := standardInitSequence
  /-- "unless the platform wires it so" (70 R320): whether `rst` also resets the display controller (log 14) -/
  rstResetsDisplay : Bool := false
  deriving DecidableEq, Repr

/-- The configuration with every default of R7. -/
def Config.default : Config := {}

/-- What the source says of the kick table: largest at the two centre offsets, smallest at the edges (R7). -/
abbrev Config.kickMagRises (c : Config) : Prop :=
  c.kickMag0 ≤ c.kickMag1 ∧ c.kickMag1 ≤ c.kickMag2 ∧ c.kickMag2 ≤ c.kickMag3

/-! ### Free -/

/-- FONT: five column bytes for a character code, column index 0 the leftmost. The spec gives no glyph
(43_framebuffer.md R214, 93 U3): nothing is known of it (log 3). -/
opaque Config.font : Byte → Fin 5 → Byte

/-- The column pointer after an event that leaves it undefined (93 U7, U9); the argument counts such events (log 11, 12). -/
opaque Config.freeCol : Nat → BitVec 7

/-- The page pointer after an event that leaves it undefined (93 U7, U9); the argument counts such events (log 11, 12). -/
opaque Config.freePage : Nat → BitVec 3

end Sys2Proof
end

