-- ==== Sys2Proof/Machine/Arith.lean ====
section
/-! DEFINITION. The arithmetic primitives of 00_scope.md R11, on mathematical integers. -/

namespace Sys2Proof.Machine

/-- `wrapW(v)` for the register width `w`: the integer from `-2^(w-1)` to `2^(w-1) - 1` that is congruent to `v` modulo
`2^w` (R11). -/
def wrapW (w : Nat) (v : Int) : Int := v.bmod (2 ^ w)

/-- `tdiv(a, b)`: division truncating toward zero (R11). -/
def tdiv (a b : Int) : Int := a.tdiv b

/-- `asr(v, n)`: the floor of `v / 2^n` (R11). -/
def asr (v : Int) (n : Nat) : Int := v.fdiv (2 ^ n)

end Sys2Proof.Machine
end

