-- ==== Sys2Proof/Machine/State.lean ====
section
/-! DEFINITION. The state of PONGCORE and of the display controller on its serial channel, as plain data
(10_state.md), the reset state (R38), and the reasons a step can stop. -/

namespace Sys2Proof.Machine

/-- A byte memory: cells in rising order of address, none of them equal to what an unlisted address reads as
(`Memory.wf`, Machine/Memory.lean). -/
abbrev Memory := List Host.Cell

/-- The five ball registers, each the signed integer that its W bits stand for (10_state.md R20; the range is
`State.regsWf`, log 1). -/
structure Ball where
  px : Int
  py : Int
  vx : Int
  vy : Int
  spin : Int
  deriving DecidableEq, Repr

/-- The two registers of one paddle; its lane column is configuration (10_state.md R24). -/
structure Paddle where
  pos : Int
  vel : Int
  deriving DecidableEq, Repr

/-- The mode bit `dc` of a serial byte: 0 a command byte, 1 a data byte (30_encoding.md R110). -/
inductive Framing where
  | command
  | data
  deriving DecidableEq, Repr

/-- One element `(dc, b)` of TXLOG (10_state.md R35). -/
structure TxByte where
  dc : Framing
  byte : Byte
  deriving DecidableEq, Repr

/-- The controller commands that take one parameter byte (30_encoding.md R113). -/
inductive OneParam where
  | contrast
  | muxRatio
  | addrMode
  | chargePump
  deriving DecidableEq, Repr

/-- The controller commands that take two parameter bytes (30_encoding.md R113). -/
inductive TwoParam where
  | colAddr
  | pageAddr
  deriving DecidableEq, Repr

/-- D_PARSE: idle, or a pending command and the parameters received so far (10_state.md R32, 44 R250; log 18). -/
inductive Parse where
  | idle
  | awaitOne (c : OneParam)
  | awaitTwo (c : TwoParam)
  | awaitSecond (c : TwoParam) (first : Byte)
  deriving DecidableEq, Repr

/-- The display controller's registers and GDDRAM (10_state.md R31, R32). An address that `gddram` does not list has no
known value (93 U5). -/
structure Display where
  colStart : BitVec 7
  colEnd : BitVec 7
  pageStart : BitVec 3
  pageEnd : BitVec 3
  col : BitVec 7
  page : BitVec 3
  addrMode : BitVec 2
  on : BitVec 1
  contrast : Byte
  segRemap : BitVec 1
  comScan : BitVec 1
  mux : BitVec 6
  pump : BitVec 1
  parse : Parse
  gddram : Memory
  deriving DecidableEq, Repr

/-- The display controller as far as the spec follows it. `lost`: it was sent a byte for which the spec gives the
controller no behaviour (93 U8), so nothing is known of it any more; PONGCORE itself goes on (log 13). -/
inductive Controller where
  | tracked (d : Display)
  | lost
  deriving DecidableEq, Repr

/-- The SINK agent (00_scope.md R14): the controller, and how many free values were drawn for it (the model's own
counter, log 11 and 23). -/
structure Sink where
  ctrl : Controller
  freeCount : Nat
  deriving DecidableEq, Repr

/-- One action of a run (00_scope.md R16, 70 R320). -/
inductive Action where
  /-- the host presents a command word (R90) -/
  | command (w : Command)
  /-- one pulse on `tick_req` (60 R293) -/
  | tickRequest
  /-- one assertion of `rst` while the machine is idle or runs a tick (70 R320) -/
  | reset
  /-- the host presents a command word and `rst` abandons it after `sent` of its serial bytes (70 R320; log 15) -/
  | resetDuring (w : Command) (sent : Nat)
  deriving DecidableEq, Repr

/-- The whole state. `cfg` is the fixed configuration (log 2); `resps`, `actions` and `ci` are the run's output, the
actions still to come and the command index, which the spec calls modelling devices (00 R16, 10 R33; log 4, 16). -/
structure State where
  /-- the parameters of 00_scope.md R7 -/
  cfg : Config
  /-- BALL.PX, PY, VX, VY, SPIN (R20) -/
  ball : Ball
  /-- PAD[0], LEFT (R24) -/
  pad0 : Paddle
  /-- PAD[1], RIGHT (R24) -/
  pad1 : Paddle
  /-- SCORE[0], LEFT (R26) -/
  score0 : Byte
  /-- SCORE[1], RIGHT (R26) -/
  score1 : Byte
  /-- CTRL.TICK_EN (R28) -/
  tickEn : Bool
  /-- FB (R30) -/
  fb : Memory
  /-- TXLOG, oldest first (R35) -/
  txlog : List TxByte
  /-- the display controller (R31, R32) -/
  sink : Sink
  /-- the response words given so far, oldest first (R16, R93) -/
  resps : List Word
  /-- the actions still to come, next first (R16) -/
  actions : List Action
  /-- the command index (R33) -/
  ci : Nat
  deriving DecidableEq, Repr

/-- The complete list of exceptions is empty (60_exceptions.md R290): no meaning and no step of this machine faults, so
the type has no constructor. Nobody raises a fault: safe. -/
inductive Fault where
  deriving DecidableEq, Repr

/-- Why a step is refused. -/
inductive Refusal where
  /-- Raised only by an arm of `exec` for an instruction without a meaning. No arm raises it: every command has its
  meaning and none is refused (60 R290). Safe: a refusal proves nothing. -/
  | notModelled (mnemonic : String)
  deriving DecidableEq, Repr

/-- The display controller after power-up (10_state.md R38): the spec's values, GDDRAM unspecified (nothing listed),
and 0 for the five registers the spec leaves unspecified (DESIGN CHOICE, unsafe, log 9). -/
def Display.reset : Display where
  colStart := 0
  colEnd := 127
  pageStart := 0
  pageEnd := 7
  col := 0
  page := 0
  addrMode := 2
  on := 0
  contrast := 0
  segRemap := 0
  comScan := 0
  mux := 0
  pump := 0
  parse := .idle
  gddram := []

/-- The table of 10_state.md R38 for a configuration. -/
def State.resetWith (cfg : Config) : State where
  cfg := cfg
  ball := ⟨wrapW cfg.width cfg.serveXLeft, wrapW cfg.width cfg.serveY, wrapW cfg.width cfg.initSpeed, 0, 0⟩
  pad0 := ⟨wrapW cfg.width cfg.paddleInitPos, 0⟩
  pad1 := ⟨wrapW cfg.width cfg.paddleInitPos, 0⟩
  score0 := 0x00
  score1 := 0x00
  tickEn := false
  fb := []
  txlog := []
  sink := ⟨.tracked Display.reset, 0⟩
  resps := []
  actions := []
  ci := 0

/-- The machine right after reset, with the default parameters (10_state.md R38, 00_scope.md R7). -/
def State.reset : State := State.resetWith Config.default

end Sys2Proof.Machine
end

