-- ==== Sys2Proof/Machine/Memory.lean ====
section
/-! DEFINITION. Byte memories in canonical form (20_memory.md R60, R62). A memory has a background: what an address it
does not list reads as. FB's is the byte 0x00, its reset contents (10_state.md R38); GDDRAM's is no value, since its
contents after reset are unspecified (93 U5). -/

namespace Sys2Proof.Machine

/-- The byte listed at `a`, if any. -/
def Memory.lookup : Memory → Nat → Option Byte
  | [], _ => none
  | (b, v) :: m, a => if b = a then some v else Memory.lookup m a

/-- `m` without the cell at `a`. -/
def Memory.erase : Memory → Nat → Memory
  | [], _ => []
  | (b, v) :: m, a => if b = a then m else (b, v) :: Memory.erase m a

/-- `m` with the cell `(a, v)`, in its place in the rising order. -/
def Memory.insert : Memory → Nat → Byte → Memory
  | [], a, v => [(a, v)]
  | (b, u) :: m, a, v =>
    if a < b then (a, v) :: (b, u) :: m
    else if b = a then (a, v) :: m
    else (b, u) :: Memory.insert m a v

/-- Write one byte; writing the background value removes the cell. -/
def Memory.write (bg : Option Byte) (m : Memory) (a : Nat) (v : Byte) : Memory :=
  if bg = some v then Memory.erase m a else Memory.insert m a v

/-- The canonical form: addresses strictly rising and below `size`, no cell equal to the background. -/
def Memory.wf (bg : Option Byte) (size : Nat) (m : Memory) : Bool :=
  decide (m.Pairwise fun c e => c.1 < e.1) && m.all fun c => decide (c.1 < size) && decide (bg ≠ some c.2)

/-- What an unlisted address of FB reads as: its reset value (10_state.md R38; log 22). -/
def fbBackground : Byte := 0x00

/-- What an unlisted address of GDDRAM reads as: nothing is known of it (93 U5; log 8). -/
def gddramBackground : Option Byte := none

end Sys2Proof.Machine
end

