-- ==== Sys2Proof/Machine/Display.lean ====
section
/-! DEFINITION. The SINK agent: what the display controller does with a byte of the serial channel
(44_display_transport.md R250 to R252; 93 U7 to U9). -/

namespace Sys2Proof.Machine

/-- The GDDRAM address under the pointers: `D_COL + D_PAGE * 128` (R251). -/
def Display.address (d : Display) : Nat := d.col.toNat + d.page.toNat * fbWidth

/-- Whether a window's start is not beyond its end on either axis (R252, U9). -/
def Display.windowOk (d : Display) : Bool := decide (d.colStart ≤ d.colEnd) && decide (d.pageStart ≤ d.pageEnd)

/-- Whether the spec says what a data byte does: no command pending (U8), horizontal addressing (U7) and a window whose
start is not beyond its end (U9). The parser is the first test of `sinkData`. -/
def Display.takesData (d : Display) : Bool := decide (d.addrMode = 0) && d.windowOk

/-- The pointer walk after a data byte (R251): left to right, then page by page, then back to the window's start. -/
def Display.advance (d : Display) : Display :=
  if d.col ≠ d.colEnd then { d with col := d.col + 1 }
  else if d.page ≠ d.pageEnd then { d with col := d.colStart, page := d.page + 1 }
  else { d with col := d.colStart, page := d.pageStart }

/-- A data byte where the spec says what it does (R251). -/
def Display.putData (d : Display) (b : Byte) : Display :=
  Display.advance { d with gddram := Memory.write gddramBackground d.gddram d.address b }

/-- A data byte outside the horizontal mode, or through a window whose start is beyond its end: the spec leaves GDDRAM
and the pointers undefined (R252, U7, U9). Nothing is known of GDDRAM, the pointers are free values (log 11, 12). -/
def Display.scatter (d : Display) (n : Nat) : Display :=
  { d with gddram := [], col := Config.freeCol n, page := Config.freePage n }

/-- The parameter of a one-parameter command has arrived (R250). -/
def Display.finishOne (d : Display) (c : OneParam) (v : Byte) : Display :=
  match c with
  | .addrMode => { d with addrMode := v.extractLsb' 0 2, parse := .idle }
  | .contrast => { d with contrast := v, parse := .idle }
  | .muxRatio => { d with mux := v.extractLsb' 0 6, parse := .idle }
  | .chargePump => { d with pump := v.extractLsb' 2 1, parse := .idle }

/-- The registers a completed window command writes, its pointer included (R250). -/
def Display.finishTwo (d : Display) (c : TwoParam) (s e : Byte) : Display :=
  match c with
  | .colAddr =>
    { d with colStart := s.extractLsb' 0 7, colEnd := e.extractLsb' 0 7, col := s.extractLsb' 0 7, parse := .idle }
  | .pageAddr =>
    { d with
      pageStart := s.extractLsb' 0 3, pageEnd := e.extractLsb' 0 3, page := s.extractLsb' 0 3, parse := .idle }

/-- Whether a window command sets a start beyond its end (U9). -/
def inverted (c : TwoParam) (s e : Byte) : Bool :=
  match c with
  | .colAddr => decide (e.extractLsb' 0 7 < s.extractLsb' 0 7)
  | .pageAddr => decide (e.extractLsb' 0 3 < s.extractLsb' 0 3)

/-- The pointer of a window command's axis becomes a free value (U9; log 12). -/
def Display.freePointer (d : Display) (c : TwoParam) (n : Nat) : Display :=
  match c with
  | .colAddr => { d with col := Config.freeCol n }
  | .pageAddr => { d with page := Config.freePage n }

/-- The commands that take parameters (30_encoding.md R113, 44 R250). -/
def openCommand (opc : Opcodes) (b : Byte) : Option Parse :=
  if b = opc.colAddr then some (.awaitTwo .colAddr)
  else if b = opc.pageAddr then some (.awaitTwo .pageAddr)
  else if b = opc.addrMode then some (.awaitOne .addrMode)
  else if b = opc.contrast then some (.awaitOne .contrast)
  else if b = opc.muxRatio then some (.awaitOne .muxRatio)
  else if b = opc.chargePump then some (.awaitOne .chargePump)
  else none

/-- The effect of a command byte without parameters; none for a byte the spec does not list (R250, U8). -/
def plainCommand (opc : Opcodes) (b : Byte) (d : Display) : Option Display :=
  if b = opc.displayOff then some { d with on := 0 }
  else if b = opc.displayOn then some { d with on := 1 }
  else if b = opc.segRemap0 ∨ b = opc.segRemap1 then some { d with segRemap := b.extractLsb' 0 1 }
  else if b = opc.comScanInc ∨ b = opc.comScanDec then some { d with comScan := b.extractLsb' 3 1 }
  else none

/-- A command byte `(0, b)` (R250). -/
def sinkCommand (opc : Opcodes) (b : Byte) (d : Display) (n : Nat) : Sink :=
  match d.parse with
  | .idle =>
    match openCommand opc b with
    | some p => ⟨.tracked { d with parse := p }, n⟩
    | none =>
      match plainCommand opc b d with
      | some d' => ⟨.tracked d', n⟩
      | none => ⟨.lost, n⟩
  | .awaitOne c => ⟨.tracked (d.finishOne c b), n⟩
  | .awaitTwo c => ⟨.tracked { d with parse := .awaitSecond c b }, n⟩
  | .awaitSecond c s =>
    if inverted c s b then ⟨.tracked ((d.finishTwo c s b).freePointer c n), n + 1⟩
    else ⟨.tracked (d.finishTwo c s b), n⟩

/-- A data byte `(1, b)` (R251, R252; U7, U8, U9). -/
def sinkData (b : Byte) (d : Display) (n : Nat) : Sink :=
  if d.parse ≠ .idle then ⟨.lost, n⟩
  else if d.takesData then ⟨.tracked (d.putData b), n⟩
  else ⟨.tracked (d.scatter n), n + 1⟩

/-- One byte arrives at the controller. -/
def sinkByte (opc : Opcodes) (k : Sink) (t : TxByte) : Sink :=
  match k.ctrl with
  | .lost => k
  | .tracked d =>
    match t.dc with
    | .command => sinkCommand opc t.byte d k.freeCount
    | .data => sinkData t.byte d k.freeCount

/-- Bytes arrive in the order they were sent (20_memory.md R74). -/
def sinkBytes (opc : Opcodes) (k : Sink) (ts : List TxByte) : Sink := ts.foldl (sinkByte opc) k

end Sys2Proof.Machine
end

