-- ==== Sys2Proof/Machine/Flags.lean ====
section
/-! DEFINITION. The flag bits of PONGCORE: PEND of a score register (10_state.md R26), and the bits of the response word
(30_encoding.md R93). There is no flags register (10_state.md R34). -/

namespace Sys2Proof.Machine

/-- `PEND`, bit 7 of a score register (R26). -/
def pend (score : Byte) : Bool := score.getLsbD 7

/-- `COUNT`, bits 6:0 of a score register (R26). -/
def count (score : Byte) : BitVec 7 := score.extractLsb' 0 7

/-- A score register with PEND cleared and COUNT unchanged (40 R155). -/
def clearPend (score : Byte) : Byte := score &&& scoreCountMask

/-- `((SCORE + 1) mod 256) OR 0x80` (42_score.md R185). -/
def scorePoint (score : Byte) : Byte := (score + 1) ||| scoreFlag

/-- The response 0x0000 of every command that returns no value (30_encoding.md R93). -/
def noResult : Word := 0x0000

/-- A response whose bit 0 is an outcome and whose other bits are 0 (R93: BOUNCE, WALLS). -/
def outcomeBit (b : Bool) : Word := if b then 0x0001 else 0x0000

/-- The response of CHKPT: bit 0 = `SCORE[0].PEND`, bit 1 = `SCORE[1].PEND` (42_score.md R186). -/
def pendingBits (score0 score1 : Byte) : Word :=
  (if pend score0 then (0x0001 : Word) else 0x0000) ||| (if pend score1 then (0x0002 : Word) else 0x0000)

/-- An integer as a response: its 16-bit two's complement pattern, which for a register of more than 16 bits is its low
16 bits (R93: RDB, RDP, GETY; log 29). -/
def signedWord (v : Int) : Word := BitVec.ofInt 16 v

/-- A byte as a response: bits 7:0, upper bits 0 (R93: RDSC, RDFB). -/
def zextByte (b : Byte) : Word := b.setWidth 16

end Sys2Proof.Machine
end

