-- ==== Sys2Proof/Machine/Operands.lean ====
section
/-! DEFINITION. The operand forms of 30_encoding.md R91: how an operand's bits become the value a rule uses. -/

namespace Sys2Proof.Machine

/-- `wrapW(sext_16(imm16))`: an immediate as a value or raw sample for registers of `w` bits (R91). -/
def signedImm (w : Nat) (imm : Word) : Int := wrapW w imm.toInt

/-- `zext_16(imm16)`: an immediate as a framebuffer byte index (R91). -/
def indexImm (imm : Word) : Nat := imm.toNat

/-- A coordinate: the whole byte, unsigned (R91). -/
def coord (b : Byte) : Nat := b.toNat

/-- The register index `r` of RDB and WRB: the whole byte (R91). -/
def ballIndex (r : Byte) : Nat := r.toNat

/-- The field index `f` of RDP and WRP: the whole byte (R91). -/
def padField (f : Byte) : Nat := f.toNat

end Sys2Proof.Machine
end

