-- ==== Sys2Proof/Machine/Physics.lean ====
section
/-! DEFINITION. The ball engine and the paddle tracker on their own registers (40_ball_physics.md, 41_paddle_tracker.md).
A register is a signed integer and every result is wrapped to the register width `w`, or `cfg.width` (40 R128). -/

namespace Sys2Proof.Machine

/-! ### STEP (40 R130) -/

/-- Line 1: the decayed spin. -/
def decaySpin (w : Nat) (spin : Int) : Int := wrapW w (spin - tdiv spin spinDecayDiv)

/-- Line 2: vertical velocity with the spin coupled in; subtracted unless the horizontal velocity is positive. -/
def coupleSpin (w : Nat) (vx vy spin : Int) : Int :=
  if 0 < vx then wrapW w (vy + tdiv spin spinCoupleDiv) else wrapW w (vy - tdiv spin spinCoupleDiv)

/-- Line 3: the decayed vertical velocity. -/
def decayVy (w : Nat) (vy : Int) : Int := wrapW w (vy - tdiv vy vyDecayDiv)

/-- Line 4: a position after one integration step. -/
def integrate (w : Nat) (pos vel : Int) : Int := wrapW w (pos + tdiv vel integDiv)

/-- STEP on the ball, each line on the results of the ones before it (R130). -/
def stepBall (w : Nat) (b : Ball) : Ball :=
  let spin := decaySpin w b.spin
  let vy := decayVy w (coupleSpin w b.vx b.vy spin)
  { px := integrate w b.px b.vx, py := integrate w b.py vy, vx := b.vx, vy := vy, spin := spin }

/-! ### BOUNCE (40 R135) -/

/-- The integer pixel coordinate of a position (10_state.md R21). -/
def pixelOf (pos : Int) : Int := tdiv pos subpixel

/-- `PadY(p)`, the paddle's pixel row (10_state.md R25). -/
def padY (pad : Paddle) : Int := asr pad.pos paddleShift

/-- `off`: the ball's pixel row minus the top row of the hit-box, signed (R135). -/
def hitOffset (pad : Paddle) (b : Ball) : Int := pixelOf b.py - (padY pad - hitTopOffset)

/-- `PADDLE_X[p]` (10_state.md R24). -/
def laneOf (cfg : Config) : Side → BitVec 7
  | .left => cfg.paddleX0
  | .right => cfg.paddleX1

/-- Whether the ball's pixel is in the lane column and the 8 rows of the hit-box (R135). -/
def bounceHits (cfg : Config) (p : Side) (pad : Paddle) (b : Ball) : Bool :=
  decide (pixelOf b.px = (laneOf cfg p).toNat) && decide (0 ≤ hitOffset pad b) &&
    decide (hitOffset pad b < hitHeight)

/-- `KICK_MAG[k]`, `k` the distance from the nearer hit-box edge, 0 to 3 (00_scope.md R7). -/
def kickMagAt (cfg : Config) : Nat → Int
  | 0 => cfg.kickMag0
  | 1 => cfg.kickMag1
  | 2 => cfg.kickMag2
  | _ => cfg.kickMag3

/-- `kick`: the magnitude for the offset, negated in the upper four rows (R135). -/
def kickFor (cfg : Config) (off : Int) : Int :=
  let m := kickMagAt cfg (min off (7 - off)).toNat
  if off < 4 then wrapW cfg.width (-m) else m

/-- The nudge of one pixel away from the paddle plane (R135). -/
def nudge (w : Nat) (p : Side) (px : Int) : Int :=
  match p with
  | .left => wrapW w (px + subpixel)
  | .right => wrapW w (px - subpixel)

/-- The spin after a contact with a paddle of velocity `pv` (R135). -/
def contactSpin (cfg : Config) (p : Side) (spin pv : Int) : Int :=
  let term := wrapW cfg.width (cfg.spinGain * pv)
  match p with
  | .left => wrapW cfg.width (spin + term)
  | .right => wrapW cfg.width (spin - term)

/-- `blend`: 3 parts prior velocity, 1 part contribution, divided by 4 (R135). -/
def blendVy (w : Nat) (vy kick : Int) : Int := tdiv (wrapW w (wrapW w (3 * vy) + kick)) 4

/-- The vertical velocity after a contact (R135). -/
def contactVy (cfg : Config) (off vy pv : Int) : Int :=
  wrapW cfg.width (blendVy cfg.width vy (kickFor cfg off) + wrapW cfg.width (cfg.englishGain * pv))

/-- The ball after a bounce off paddle `p`; all right-hand sides are the values from before (R135). -/
def bounceBall (cfg : Config) (p : Side) (pad : Paddle) (b : Ball) : Ball :=
  { px := nudge cfg.width p b.px
    py := b.py
    vx := wrapW cfg.width (-b.vx)
    vy := contactVy cfg (hitOffset pad b) b.vy pad.vel
    spin := contactSpin cfg p b.spin pad.vel }

/-! ### WALLS (40 R140) -/

/-- The ball placed for a serve by the side that scored: LEFT serves from SERVE_X_LEFT to the right, RIGHT from
SERVE_X_RIGHT to the left; the vertical position is kept (R140). -/
def serveBall (cfg : Config) (scorer : Side) (b : Ball) : Ball :=
  match scorer with
  | .left => { px := wrapW cfg.width cfg.serveXLeft, py := b.py, vx := wrapW cfg.width cfg.initSpeed, vy := 0, spin := 0 }
  | .right => { px := wrapW cfg.width serveXRight, py := b.py, vx := wrapW cfg.width (-cfg.initSpeed), vy := 0, spin := 0 }

/-- The side that scores when the ball is at `px`: RIGHT on a left exit, LEFT on a right exit (R140). -/
def exitScorer (px : Int) : Option Side :=
  if px < 0 then some .right else if xLimit ≤ px then some .left else none

/-- Whether the vertical part of WALLS reflects the ball (R140). -/
def wallBounces (py : Int) : Bool := decide (py < 0) || decide (yLimit ≤ py)

/-- The vertical part of WALLS: reflection at the top, folding at the bottom (R140). -/
def reflectBall (w : Nat) (b : Ball) : Ball :=
  if b.py < 0 then { b with py := wrapW w (-b.py), vy := wrapW w (-b.vy) }
  else if yLimit ≤ b.py then { b with py := wrapW w (yLimit - 1 - b.py % yLimit), vy := wrapW w (-b.vy) }
  else b

/-! ### Paddle tracker (41 R171) -/

/-- A paddle after a sample: the velocity from the old position first, the position second (R171). -/
def samplePaddle (w : Nat) (pad : Paddle) (raw : Int) : Paddle :=
  let delta := wrapW w (raw - pad.pos)
  { pos := raw, vel := wrapW w (tdiv (wrapW w (wrapW w (3 * pad.vel) + delta)) 4) }

end Sys2Proof.Machine
end

