-- ==== Sys2Proof/Machine/Ops.lean ====
section
/-! DEFINITION. The named operations on the state that the meanings share: registers, the framebuffer byte, the serial
channel, the response, RegisterPoint, the ball engine on the state, and the acceptance of a tick, which is the one
event PONGCORE has in the place of an exception (60_exceptions.md R290, R293, R295, R296: nothing is saved and nothing
is returned from). -/

namespace Sys2Proof.Machine

/-! ### Registers -/

/-- `PAD[p]` (10_state.md R24). -/
def State.pad (s : State) : Side → Paddle
  | .left => s.pad0
  | .right => s.pad1

/-- `PAD[p] <- v`. -/
def State.setPad (s : State) (p : Side) (v : Paddle) : State :=
  match p with
  | .left => { s with pad0 := v }
  | .right => { s with pad1 := v }

/-- `SCORE[p]` (10_state.md R26). -/
def State.score (s : State) : Side → Byte
  | .left => s.score0
  | .right => s.score1

/-- `SCORE[p] <- v`. -/
def State.setScore (s : State) (p : Side) (v : Byte) : State :=
  match p with
  | .left => { s with score0 := v }
  | .right => { s with score1 := v }

/-- `BALL <- b`. -/
def State.setBall (s : State) (b : Ball) : State := { s with ball := b }

/-- A ball register by its index; a reserved index reads 0 (45 R273, 30 R95). -/
def Ball.register (b : Ball) : Nat → Int
  | 0 => b.px
  | 1 => b.py
  | 2 => b.vx
  | 3 => b.vy
  | 4 => b.spin
  | _ => 0

/-- Write a ball register by its index; a reserved index writes nothing (45 R274, 30 R95). -/
def Ball.setRegister (b : Ball) (r : Nat) (v : Int) : Ball :=
  match r with
  | 0 => { b with px := v }
  | 1 => { b with py := v }
  | 2 => { b with vx := v }
  | 3 => { b with vy := v }
  | 4 => { b with spin := v }
  | _ => b

/-- A paddle field by its index: POS, VEL, the lane constant zero-extended; a reserved index reads 0 (45 R275, 30 R95). -/
def State.padRegister (s : State) (p : Side) : Nat → Int
  | 0 => (s.pad p).pos
  | 1 => (s.pad p).vel
  | 2 => ((laneOf s.cfg p).toNat : Int)
  | _ => 0

/-- Write a paddle field by its index; the lane constant and a reserved index write nothing (45 R276, 30 R95). -/
def Paddle.setField (pad : Paddle) (f : Nat) (v : Int) : Paddle :=
  match f with
  | 0 => { pad with pos := v }
  | 1 => { pad with vel := v }
  | _ => pad

/-- `resp <- r`, the last effect of a command: exactly one response word (30_encoding.md R93). -/
def State.respond (s : State) (r : Word) : State := { s with resps := s.resps ++ [r] }

/-! ### Framebuffer -/

/-- `MemRead(a, 1)` (20_memory.md R62). -/
def fbRead (s : State) (a : Nat) : Byte := (Memory.lookup s.fb a).getD fbBackground

/-- `MemWrite(a, 1, v)` (20_memory.md R62). -/
def fbWrite (s : State) (a : Nat) (v : Byte) : State :=
  { s with fb := Memory.write (some fbBackground) s.fb a v }

/-! ### Serial channel -/

/-- `Tx(dc, b)` for each element in order: TXLOG gains the bytes and the display controller consumes them
(30_encoding.md R110, 20_memory.md R74). -/
def State.transmit (s : State) (ts : List TxByte) : State :=
  { s with txlog := s.txlog ++ ts, sink := sinkBytes s.cfg.opc s.sink ts }

/-! ### Score and ball -/

/-- Whether no point is pending, for either side (42_score.md R184, R185). -/
def State.playing (s : State) : Bool := !pend s.score0 && !pend s.score1

/-- `RegisterPoint(p)` (42_score.md R185). -/
def State.registerPoint (s : State) (p : Side) : State :=
  if s.playing then s.setScore p (scorePoint (s.score p)) else s

/-- STEP on the state (40 R130). -/
def State.ballStep (s : State) : State := s.setBall (stepBall s.cfg.width s.ball)

/-- Whether BOUNCE p bounces in this state (40 R135). -/
def State.bounces (s : State) (p : Side) : Bool := bounceHits s.cfg p (s.pad p) s.ball

/-- BOUNCE p on the state (40 R135). -/
def State.bounce (s : State) (p : Side) : State :=
  if s.bounces p then s.setBall (bounceBall s.cfg p (s.pad p) s.ball) else s

/-- The horizontal part of WALLS: a scoring event (40 R140). -/
def State.horizontalExit (s : State) : State :=
  match exitScorer s.ball.px with
  | some p => (s.setBall (serveBall s.cfg p s.ball)).registerPoint p
  | none => s

/-- WALLS on the state: the horizontal part, then the vertical part (40 R140). -/
def State.walls (s : State) : State :=
  let h := s.horizontalExit
  h.setBall (reflectBall h.cfg.width h.ball)

/-- The tick sequence STEP; BOUNCE 0; BOUNCE 1; WALLS, responses discarded (40 R150). -/
def State.tickSequence (s : State) : State := (((s.ballStep).bounce .left).bounce .right).walls

/-- The side SERVE serves for: RIGHT if its point is pending, else LEFT (40 R155). -/
def State.server (s : State) : Side := if pend s.score1 then .right else .left

/-- The consume step (40 R155). -/
def State.serve (s : State) : State :=
  let b := serveBall s.cfg s.server s.ball
  { s with
    ball := { b with py := wrapW s.cfg.width s.cfg.serveY }
    pad0 := ⟨wrapW s.cfg.width s.cfg.paddleInitPos, 0⟩
    pad1 := ⟨wrapW s.cfg.width s.cfg.paddleInitPos, 0⟩
    score0 := clearPend s.score0
    score1 := clearPend s.score1 }

/-- Acceptance of one pulse on `tick_req`: the tick sequence if `CTRL.TICK_EN = 1`, else the request is dropped; no
response word, nothing saved, no return (60_exceptions.md R293, R295, R296). -/
def acceptTick (s : State) : State := if s.tickEn then s.tickSequence else s

end Sys2Proof.Machine
end

