-- ==== Sys2Proof/Machine/BallCommands.lean ====
section
/-! DEFINITION. The ball commands (40_ball_physics.md R130 to R155). -/

namespace Sys2Proof.Machine

/-- STEP: one fixed tick of integration (R130). -/
def execStep (s : State) : Host.Outcome State Fault Refusal := .next (s.ballStep.respond noResult)

/-- BOUNCE p: the collision test against one paddle; bit 0 of the response tells whether it bounced (R135). -/
def execBounce (p : Side) (s : State) : Host.Outcome State Fault Refusal :=
  .next ((s.bounce p).respond (outcomeBit (s.bounces p)))

/-- WALLS: exits and wall reflections; bit 0 of the response tells a vertical bounce (R140). A horizontal exit does not
write `BALL.PY`, so the vertical test is that of the position before the command. -/
def execWalls (s : State) : Host.Outcome State Fault Refusal :=
  .next (s.walls.respond (outcomeBit (wallBounces s.ball.py)))

/-- TICK: the tick sequence as a host command, whatever `CTRL.TICK_EN` is (R150). -/
def execTick (s : State) : Host.Outcome State Fault Refusal := .next (s.tickSequence.respond noResult)

/-- SERVE: the consume step (R155). -/
def execServe (s : State) : Host.Outcome State Fault Refusal := .next (s.serve.respond noResult)

end Sys2Proof.Machine
end

