-- ==== Sys2Proof/Machine/Drawing.lean ====
section
/-! DEFINITION. Drawing into the framebuffer: Plot, Line, BlockWrite, a glyph (43_framebuffer.md R203, R205, R210, R214;
20_memory.md R61). -/

namespace Sys2Proof.Machine

/-- `PixAddr(x, y)` (20_memory.md R61). -/
def pixAddr (x y : Nat) : Nat := x + y / pageHeight * fbWidth

/-- `PixBit(x, y)` (20_memory.md R61). -/
def pixBit (y : Nat) : Nat := y % pageHeight

/-- The mode of a pixel or line command: 0 = set, 1 = clear, 2 = toggle (R203). -/
inductive PixelMode where
  | set
  | clear
  | toggle
  deriving DecidableEq, Repr

/-- The byte with bit `k` set, cleared or inverted (R203). -/
def PixelMode.apply (m : PixelMode) (v : Byte) (k : Nat) : Byte :=
  match m with
  | .set => v ||| ((1 : Byte) <<< k)
  | .clear => v &&& ((0xFF : Byte) ^^^ ((1 : Byte) <<< k))
  | .toggle => v ^^^ ((1 : Byte) <<< k)

/-- Whether a point is in the 128 × 64 field (R203). -/
def inField (x y : Int) : Bool :=
  decide (0 ≤ x) && decide (x < fbWidth) && decide (0 ≤ y) && decide (y < fbHeight)

/-- `Plot(x, y, mode)`; a point outside the field is dropped (R203). -/
def plot (m : PixelMode) (s : State) (pt : Int × Int) : State :=
  if inField pt.1 pt.2 then
    let a := pixAddr pt.1.toNat pt.2.toNat
    fbWrite s a (m.apply (fbRead s a) (pixBit pt.2.toNat))
  else s

/-- The loop of `Line`: `n` points from major coordinate `x`, minor `y` and error `err` on (R205). -/
def lineLoop (dx dy ystep : Int) : Nat → Int → Int → Int → List (Int × Int)
  | 0, _, _, _ => []
  | n + 1, x, y, err =>
    let err' := err - dy
    (x, y) :: if err' < 0 then lineLoop dx dy ystep n (x + 1) (y + ystep) (err' + dx)
      else lineLoop dx dy ystep n (x + 1) y err'

/-- The points of a line that is not steep, from its end with the smaller major coordinate on (R205). -/
def majorPoints (x0 y0 x1 y1 : Int) : List (Int × Int) :=
  let dx := x1 - x0
  lineLoop dx |y1 - y0| (if y0 < y1 then 1 else -1) (dx + 1).toNat x0 y0 (dx / 2)

/-- The same with the end points in either order: iterate with increasing major coordinate (R205). -/
def orderedPoints (x0 y0 x1 y1 : Int) : List (Int × Int) :=
  if x0 > x1 then majorPoints x1 y1 x0 y0 else majorPoints x0 y0 x1 y1

/-- The points `Line` plots, in order: axes swapped before iterating and swapped back per pixel when steep (R205). -/
def linePoints (x0 y0 x1 y1 : Int) : List (Int × Int) :=
  if |y1 - y0| > |x1 - x0| then (orderedPoints y0 x0 y1 x1).map Prod.swap else orderedPoints x0 y0 x1 y1

/-- `Line(x0, y0, x1, y1, mode)` (R205). -/
def drawLine (m : PixelMode) (x0 y0 x1 y1 : Byte) (s : State) : State :=
  (linePoints (coord x0) (coord y0) (coord x1) (coord y1)).foldl (plot m) s

/-- `BlockWrite(x, y, v)`: one plain byte write on a page boundary, else two masked read-modify-writes, the lower one
dropped below the last page (R210). -/
def blockWrite (x y : Nat) (v : Byte) (s : State) : State :=
  if x < fbWidth ∧ y < fbHeight then
    let a := pixAddr x y
    let k := pixBit y
    if k = 0 then fbWrite s a v
    else
      let u := fbWrite s a ((fbRead s a &&& ((0xFF : Byte) >>> (8 - k))) ||| (v <<< k))
      if y / pageHeight < numPages - 1 then
        fbWrite u (a + fbWidth) ((fbRead u (a + fbWidth) &&& ((0xFF : Byte) <<< k)) ||| (v >>> (8 - k)))
      else u
  else s

/-- Five column bytes blitted as five BlockWrites, left to right (R214). -/
def blitColumns (x y : Nat) (cols : Fin 5 → Byte) (s : State) : State :=
  (List.finRange 5).foldl (fun u i => blockWrite (x + i.val) y (cols i) u) s

end Sys2Proof.Machine
end

