-- ==== Sys2Proof/Machine/FramebufferCommands.lean ====
section
/-! DEFINITION. The framebuffer commands (43_framebuffer.md R200 to R217). -/

namespace Sys2Proof.Machine

/-- PXSET x, y (R200). -/
def execPxset (x y : Byte) (s : State) : Host.Outcome State Fault Refusal :=
  .next ((plot .set s (coord x, coord y)).respond noResult)

/-- PXCLR x, y (R201). -/
def execPxclr (x y : Byte) (s : State) : Host.Outcome State Fault Refusal :=
  .next ((plot .clear s (coord x, coord y)).respond noResult)

/-- PXTOG x, y (R202). -/
def execPxtog (x y : Byte) (s : State) : Host.Outcome State Fault Refusal :=
  .next ((plot .toggle s (coord x, coord y)).respond noResult)

/-- LINESET x0, y0, x1, y1 (R206). -/
def execLineset (x0 y0 x1 y1 : Byte) (s : State) : Host.Outcome State Fault Refusal :=
  .next ((drawLine .set x0 y0 x1 y1 s).respond noResult)

/-- LINECLR x0, y0, x1, y1 (R207). -/
def execLineclr (x0 y0 x1 y1 : Byte) (s : State) : Host.Outcome State Fault Refusal :=
  .next ((drawLine .clear x0 y0 x1 y1 s).respond noResult)

/-- LINETOG x0, y0, x1, y1 (R208). -/
def execLinetog (x0 y0 x1 y1 : Byte) (s : State) : Host.Outcome State Fault Refusal :=
  .next ((drawLine .toggle x0 y0 x1 y1 s).respond noResult)

/-- BLOCK x, y, v (R210). -/
def execBlock (x y v : Byte) (s : State) : Host.Outcome State Fault Refusal :=
  .next ((blockWrite (coord x) (coord y) v s).respond noResult)

/-- GLYPH x, y, ch: the five columns of the font, which the spec leaves open (R214; log 3). -/
def execGlyph (x y ch : Byte) (s : State) : Host.Outcome State Fault Refusal :=
  .next ((blitColumns (coord x) (coord y) (Config.font ch) s).respond noResult)

/-- FBCLR: all 1024 bytes 0x00, which is the memory that lists nothing (R216). -/
def execFbclr (s : State) : Host.Outcome State Fault Refusal := .next ({ s with fb := [] }.respond noResult)

/-- RDFB imm16: respond one framebuffer byte, 0 for an index outside (R217). -/
def execRdfb (imm : Word) (s : State) : Host.Outcome State Fault Refusal :=
  .next (s.respond (if indexImm imm < fbBytes then zextByte (fbRead s (indexImm imm)) else noResult))

end Sys2Proof.Machine
end

