-- ==== Sys2Proof/Machine/PaddleCommands.lean ====
section
/-! DEFINITION. The paddle tracker commands (41_paddle_tracker.md R171, R172). -/

namespace Sys2Proof.Machine

/-- SETY p, imm16: smooth the velocity, then store the sample (R171). -/
def execSety (p : Side) (imm : Word) (s : State) : Host.Outcome State Fault Refusal :=
  .next ((s.setPad p (samplePaddle s.cfg.width (s.pad p) (signedImm s.cfg.width imm))).respond noResult)

/-- GETY p: respond the paddle's pixel row (R172). -/
def execGety (p : Side) (s : State) : Host.Outcome State Fault Refusal :=
  .next (s.respond (signedWord (padY (s.pad p))))

end Sys2Proof.Machine
end

