-- ==== Sys2Proof/Machine/ScoreCommands.lean ====
section
/-! DEFINITION. The score commands (42_score.md R185 to R187). -/

namespace Sys2Proof.Machine

/-- REGPT s: register a point unless one is pending (R185). -/
def execRegpt (p : Side) (s : State) : Host.Outcome State Fault Refusal := .next ((s.registerPoint p).respond noResult)

/-- CHKPT: respond the two PEND flags, without side effects (R186). -/
def execChkpt (s : State) : Host.Outcome State Fault Refusal := .next (s.respond (pendingBits s.score0 s.score1))

/-- RDSC s: respond a score register whole (R187). -/
def execRdsc (p : Side) (s : State) : Host.Outcome State Fault Refusal := .next (s.respond (zextByte (s.score p)))

end Sys2Proof.Machine
end

