-- ==== Sys2Proof/Machine/System.lean ====
section
/-! DEFINITION. The system and test-access commands (45_system_debug.md R270 to R276), and what the machine does with
a word whose opcode is reserved (30_encoding.md R94). -/

namespace Sys2Proof.Machine

/-- NOP (R270). -/
def execNop (s : State) : Host.Outcome State Fault Refusal := .next (s.respond noResult)

/-- TICKON: `CTRL.TICK_EN <- 1` (R271). -/
def execTickon (s : State) : Host.Outcome State Fault Refusal := .next ({ s with tickEn := true }.respond noResult)

/-- TICKOFF: `CTRL.TICK_EN <- 0` (R272). -/
def execTickoff (s : State) : Host.Outcome State Fault Refusal := .next ({ s with tickEn := false }.respond noResult)

/-- RDB r: respond a ball register, 0 for a reserved index (R273). -/
def execRdb (r : Byte) (s : State) : Host.Outcome State Fault Refusal :=
  .next (s.respond (signedWord (s.ball.register (ballIndex r))))

/-- WRB r, imm16: write a ball register, nothing for a reserved index (R274). -/
def execWrb (r : Byte) (imm : Word) (s : State) : Host.Outcome State Fault Refusal :=
  .next ((s.setBall (s.ball.setRegister (ballIndex r) (signedImm s.cfg.width imm))).respond noResult)

/-- RDP p, f: respond a paddle field or the lane constant, 0 for a reserved index (R275). -/
def execRdp (p : Side) (f : Byte) (s : State) : Host.Outcome State Fault Refusal :=
  .next (s.respond (signedWord (s.padRegister p (padField f))))

/-- WRP p, f, imm16: write a paddle field, nothing for the lane constant or a reserved index (R276). -/
def execWrp (p : Side) (f : Byte) (imm : Word) (s : State) : Host.Outcome State Fault Refusal :=
  .next ((s.setPad p ((s.pad p).setField (padField f) (signedImm s.cfg.width imm))).respond noResult)

/-- A word with a reserved opcode executes as NOP: no state change, response 0x0000 (30 R94; log 6). -/
def execReserved (s : State) : Host.Outcome State Fault Refusal := .next (s.respond noResult)

end Sys2Proof.Machine
end

