-- ==== Sys2Proof/Machine/Transport.lean ====
section
/-! DEFINITION. The display transport: window sequence and bursts as lists of serial bytes (30_encoding.md R112, R114;
44_display_transport.md R229 to R236). -/

namespace Sys2Proof.Machine

/-- A command byte, `dc = 0` (30 R110). -/
def cmdByte (b : Byte) : TxByte := ⟨.command, b⟩

/-- A data byte, `dc = 1` (30 R110). -/
def dataByte (b : Byte) : TxByte := ⟨.data, b⟩

/-- `SetWindow(c0, c1, p0, p1)`: six command bytes, column before page (30 R112). -/
def setWindow (opc : Opcodes) (c0 c1 p0 p1 : Nat) : List TxByte :=
  [cmdByte opc.colAddr, cmdByte (BitVec.ofNat 8 c0), cmdByte (BitVec.ofNat 8 c1),
   cmdByte opc.pageAddr, cmdByte (BitVec.ofNat 8 p0), cmdByte (BitVec.ofNat 8 p1)]

/-- The data bytes of pages `p0 .. p1` and columns `c0 .. c1` of FB, page-major; none when `p0 > p1` (44 R235). -/
def regionData (s : State) (c0 c1 p0 p1 : Nat) : List TxByte :=
  (List.range (p1 + 1 - p0)).flatMap fun i =>
    (List.range (c1 + 1 - c0)).map fun j => dataByte (fbRead s ((c0 + j) + (p0 + i) * fbWidth))

/-- The page of a row, reduced modulo the page count (44 R234, R235). -/
def pageOf (y : Nat) : Nat := y / pageHeight % numPages

/-- The bytes RFALL sends (44 R233). -/
def refreshAllBytes (s : State) : List TxByte :=
  setWindow s.cfg.opc 0 127 0 7 ++ (List.range fbBytes).map fun i => dataByte (fbRead s i)

/-- The bytes RFPX sends; none for a column outside the display (44 R234). -/
def refreshPixelBytes (s : State) (x y : Nat) : List TxByte :=
  if x < fbWidth then
    setWindow s.cfg.opc x x (pageOf y) (pageOf y) ++ [dataByte (fbRead s (x + pageOf y * fbWidth))]
  else []

/-- The bytes RFREG sends; none for a column outside the display (44 R235). -/
def refreshRegionBytes (s : State) (x0 y0 x1 y1 : Nat) : List TxByte :=
  if x0 < fbWidth ∧ x1 < fbWidth then
    let c0 := min x0 x1
    let c1 := max x0 x1
    let p0 := pageOf (min y0 y1)
    let p1 := pageOf (max y0 y1)
    setWindow s.cfg.opc c0 c1 p0 p1 ++ regionData s c0 c1 p0 p1
  else []

/-- The bytes DINIT sends (30 R114, 44 R236). -/
def initBytes (s : State) : List TxByte := s.cfg.dinitSeq.map cmdByte

end Sys2Proof.Machine
end

