-- ==== Sys2Proof/Machine/TransportCommands.lean ====
section
/-! DEFINITION. The display transport commands (44_display_transport.md R230 to R236). -/

namespace Sys2Proof.Machine

/-- TXCMD v: one command byte (R230). -/
def execTxcmd (v : Byte) (s : State) : Host.Outcome State Fault Refusal :=
  .next ((s.transmit [cmdByte v]).respond noResult)

/-- TXDAT v: one data byte (R231). -/
def execTxdat (v : Byte) (s : State) : Host.Outcome State Fault Refusal :=
  .next ((s.transmit [dataByte v]).respond noResult)

/-- RFALL: the full window, then the whole framebuffer (R233). -/
def execRfall (s : State) : Host.Outcome State Fault Refusal :=
  .next ((s.transmit (refreshAllBytes s)).respond noResult)

/-- RFPX x, y: a one-byte window and its byte (R234). -/
def execRfpx (x y : Byte) (s : State) : Host.Outcome State Fault Refusal :=
  .next ((s.transmit (refreshPixelBytes s (coord x) (coord y))).respond noResult)

/-- RFREG x0, y0, x1, y1: the bounding rectangle, in whole pages (R235). -/
def execRfreg (x0 y0 x1 y1 : Byte) (s : State) : Host.Outcome State Fault Refusal :=
  .next ((s.transmit (refreshRegionBytes s (coord x0) (coord y0) (coord x1) (coord y1))).respond noResult)

/-- DINIT: the controller initialisation sequence (R236). -/
def execDinit (s : State) : Host.Outcome State Fault Refusal :=
  .next ((s.transmit (initBytes s)).respond noResult)

end Sys2Proof.Machine
end

