-- ==== Sys2Proof/Machine/Dispatch.lean ====
section
/-! DEFINITION. The meaning of every command, one arm per constructor of Instr. -/

namespace Sys2Proof.Machine

/-- The meaning of a command (30_encoding.md R92). -/
def exec (i : Instr) (s : State) : Host.Outcome State Fault Refusal :=
  match i with
  | .nop => Sys2Proof.Machine.execNop s
  | .tickon => Sys2Proof.Machine.execTickon s
  | .tickoff => Sys2Proof.Machine.execTickoff s
  | .step => Sys2Proof.Machine.execStep s
  | .bounce p => Sys2Proof.Machine.execBounce p s
  | .walls => Sys2Proof.Machine.execWalls s
  | .tick => Sys2Proof.Machine.execTick s
  | .serve => Sys2Proof.Machine.execServe s
  | .rdb r => Sys2Proof.Machine.execRdb r s
  | .wrb r imm => Sys2Proof.Machine.execWrb r imm s
  | .sety p imm => Sys2Proof.Machine.execSety p imm s
  | .gety p => Sys2Proof.Machine.execGety p s
  | .rdp p f => Sys2Proof.Machine.execRdp p f s
  | .wrp p f imm => Sys2Proof.Machine.execWrp p f imm s
  | .regpt p => Sys2Proof.Machine.execRegpt p s
  | .chkpt => Sys2Proof.Machine.execChkpt s
  | .rdsc p => Sys2Proof.Machine.execRdsc p s
  | .pxset x y => Sys2Proof.Machine.execPxset x y s
  | .pxclr x y => Sys2Proof.Machine.execPxclr x y s
  | .pxtog x y => Sys2Proof.Machine.execPxtog x y s
  | .lineset x0 y0 x1 y1 => Sys2Proof.Machine.execLineset x0 y0 x1 y1 s
  | .lineclr x0 y0 x1 y1 => Sys2Proof.Machine.execLineclr x0 y0 x1 y1 s
  | .linetog x0 y0 x1 y1 => Sys2Proof.Machine.execLinetog x0 y0 x1 y1 s
  | .block x y v => Sys2Proof.Machine.execBlock x y v s
  | .glyph x y ch => Sys2Proof.Machine.execGlyph x y ch s
  | .fbclr => Sys2Proof.Machine.execFbclr s
  | .rdfb imm => Sys2Proof.Machine.execRdfb imm s
  | .rfall => Sys2Proof.Machine.execRfall s
  | .rfpx x y => Sys2Proof.Machine.execRfpx x y s
  | .rfreg x0 y0 x1 y1 => Sys2Proof.Machine.execRfreg x0 y0 x1 y1 s
  | .txcmd v => Sys2Proof.Machine.execTxcmd v s
  | .txdat v => Sys2Proof.Machine.execTxdat v s
  | .dinit => Sys2Proof.Machine.execDinit s

end Sys2Proof.Machine
end

