-- ==== Sys2Proof/Machine/Run.lean ====
section
/-! DEFINITION. Taking one action: a command word is decoded and executed, a reset (70_reset_and_hazards.md R320). The
acceptance of a tick is `acceptTick` (Machine/Ops.lean). -/

namespace Sys2Proof.Machine

/-- The action in front is taken: the rest of the run is still to come. -/
def State.take (s : State) (rest : List Action) : State := { s with actions := rest }

/-- The command in front is taken: the command index advances by exactly 1 (10_state.md R33). No command reads or
writes either field. -/
def State.takeCommand (s : State) (rest : List Action) : State := { s with actions := rest, ci := s.ci + 1 }

/-- Decode a command word and execute it; a word with a reserved opcode executes as NOP (30_encoding.md R94). -/
def runCommand (w : Command) (s : State) : Host.Outcome State Fault Refusal :=
  match decode w with
  | .ok i => exec i s
  | .error (.reservedOpcode _) => execReserved s

/-- The display controller after `rst`: kept, unless the platform wires the reset to it (70 R320; log 14). -/
def sinkAfterReset (s : State) : Sink :=
  if s.cfg.rstResetsDisplay then ⟨.tracked Display.reset, s.sink.freeCount⟩ else s.sink

/-- `rst`: every element of PONGCORE takes its reset value, a new run of outputs begins, the configuration, the display
controller and the actions still to come stay (70 R320, 10 R38; log 14). -/
def State.afterReset (s : State) : State :=
  { State.resetWith s.cfg with sink := sinkAfterReset s, actions := s.actions }

/-- The bytes command `w` sends when executed in `s`. -/
def bytesSentBy (w : Command) (s : State) : List TxByte :=
  match runCommand w s with
  | .next t => t.txlog.drop s.txlog.length
  | .fault _ => []
  | .refused _ => []

/-- `rst` while command `w` is executing, after `sent` of its bytes: the command is abandoned, the bytes already sent
stay sent, so the display controller has seen them (70 R320; log 15). -/
def State.abandon (s : State) (w : Command) (sent : Nat) : State :=
  State.afterReset { s with sink := sinkBytes s.cfg.opc s.sink ((bytesSentBy w s).take sent) }

end Sys2Proof.Machine
end

