-- ==== Sys2Proof/Machine/Step.lean ====
section
/-! DEFINITION. One step: the next action of the run (00_scope.md R16, 20_memory.md R70, R71). -/

namespace Sys2Proof.Machine

/-- One atomic action. With no action to come the machine is idle and stays as it is: there is no halted state (R16). -/
def step (s : State) : Host.Outcome State Fault Refusal :=
  match s.actions with
  | [] => .next s
  | .command w :: rest => runCommand w (s.takeCommand rest)
  | .tickRequest :: rest => .next (acceptTick (s.take rest))
  | .reset :: rest => .next (s.take rest).afterReset
  | .resetDuring w sent :: rest => .next ((s.take rest).abandon w sent)

/-- `s` with the host presenting the command word `w` next: PONGCORE fetches from the command port (10_state.md R33,
20_memory.md R75), so this is where step takes its next command (log 4). -/
def State.withFetchWord (s : State) (nbits w : Nat) : State :=
  { s with actions := .command (commandOfTableWord nbits w) :: s.actions }

end Sys2Proof.Machine
end

