-- ==== Sys2Proof/Machine/Serial.lean ====
section
/-! DEFINITION. The pins of the serial channel, derived from the bytes sent (00_scope.md R9; 30_encoding.md R110, R111).
TXLOG is the normative observable; nothing in the machine depends on this file (log 19). -/

namespace Sys2Proof.Machine

/-- The levels of the four serial pins at one instant. `none`: the spec does not say what is on that line. -/
structure Pins where
  csN : Bool
  dc : Option Bool
  sclk : Bool
  mosi : Option Bool
  deriving DecidableEq, Repr

/-- `dc`: 0 marks a command byte, 1 a data byte (R110). -/
def Framing.level : Framing → Bool
  | .command => false
  | .data => true

/-- The bits of a byte in the order they are sent: `b[7]` first, `b[0]` last (R111). -/
def bitsOut (b : Byte) : List Bool := (List.range 8).map fun i => b.getLsbD (7 - i)

/-- The pins while no byte is sent: chip select idles high, the clock idles low (R111). -/
def Pins.idle : Pins := ⟨true, none, false, none⟩

/-- The pin levels while one byte is sent: the mode signal is driven, chip select falls, each bit is put on the line
while the clock is low and held over the rising edge, the clock returns low, chip select rises (R110, R111). -/
def byteWave (t : TxByte) : List Pins :=
  let dc := some t.dc.level
  [⟨true, dc, false, none⟩, ⟨false, dc, false, none⟩]
    ++ (bitsOut t.byte).flatMap (fun b => [⟨false, dc, false, some b⟩, ⟨false, dc, true, some b⟩])
    ++ [⟨false, dc, false, none⟩, ⟨true, dc, false, none⟩]

/-- The pin levels of a sequence of bytes: one chip-select frame per byte, also inside a burst (R110). -/
def serialWave (ts : List TxByte) : List Pins := ts.flatMap byteWave

/-- What the display samples: the levels of `dc` and `mosi` at each rising clock edge under chip select (R111). -/
def samples : List Pins → List (Option Bool × Option Bool)
  | p :: q :: ps => if !p.sclk && q.sclk && !q.csN then (q.dc, q.mosi) :: samples (q :: ps) else samples (q :: ps)
  | _ => []

end Sys2Proof.Machine
end

