-- ==== Sys2Proof/Machine/Ports.lean ====
section
/-! DEFINITION. The levels of PONGCORE's output ports (00_scope.md R9) through a step, while `rst` is asserted too
(70_reset_and_hazards.md R320). They are derived from the step; nothing in the machine depends on this file (log 19, 24, 30). -/

namespace Sys2Proof.Machine

/-- What PONGCORE is doing at one instant. -/
inductive Phase where
  /-- between two actions (20_memory.md R70) -/
  | idle
  /-- a command or a tick is being executed, the serial pins at these levels -/
  | executing (pins : Pins)
  /-- the response pulse that ends a command (30_encoding.md R93, 20_memory.md R74) -/
  | responding (resp : Word)
  /-- `rst` is asserted (70 R320) -/
  | inReset
  deriving DecidableEq, Repr

/-- The output ports of R9 at one instant. `none`: the spec does not say what the level is (log 30). -/
structure Ports where
  cmdReady : Option Bool
  respValid : Bool
  resp : Option Word
  spi : Pins
  deriving DecidableEq, Repr

/-- The output ports in each phase: `cmd_ready` is high when idle, low while a command or a tick is being executed and
while `rst` is asserted; `spi_cs_n` is high except inside the frame of a byte; `resp_valid` is high in the pulse only
(R9, R93, R110, R111, 20 R70, R74, 70 R320). -/
def Phase.ports : Phase → Ports
  | .idle => ⟨some true, false, none, Pins.idle⟩
  | .executing pins => ⟨some false, false, none, pins⟩
  | .responding r => ⟨none, true, some r, Pins.idle⟩
  | .inReset => ⟨some false, false, none, Pins.idle⟩

/-- Whether a command or a tick is accepted: only when idle (20 R70), so not while `rst` is asserted (70 R320). -/
def Phase.accepts : Phase → Bool
  | .idle => true
  | .executing _ => false
  | .responding _ => false
  | .inReset => false

/-- The response words command `w` gives when executed in `s`. -/
def responsesOf (w : Command) (s : State) : List Word :=
  match runCommand w s with
  | .next t => t.resps.drop s.resps.length
  | .fault _ => []
  | .refused _ => []

/-- Execution while the serial bytes `ts` are sent: it begins with the channel idle, then the frames of the bytes. -/
def executingBytes (ts : List TxByte) : List Phase := (Pins.idle :: serialWave ts).map .executing

/-- The phases of one action taken in `s`. A command executes, sends its bytes, then responds (20 R74); a tick request
executes or is dropped (60_exceptions.md R293); a reset during a command cuts it off after the bytes already sent, without
a response (70 R320; log 15). -/
def actionPhases (s : State) : Action → List Phase
  | .command w => executingBytes (bytesSentBy w s) ++ (responsesOf w s).map .responding
  | .tickRequest => if s.tickEn then executingBytes [] else []
  | .reset => [.inReset]
  | .resetDuring w sent => executingBytes ((bytesSentBy w s).take sent) ++ [.inReset]

/-- The phases from the idle instant before the next action to that action's end. -/
def State.phases (s : State) : List Phase :=
  match s.actions with
  | [] => [.idle]
  | a :: rest => .idle :: actionPhases (s.take rest) a

end Sys2Proof.Machine
end

