-- ==== Sys2Proof/WellFormed.lean ====
section
/-! DEFINITION. Which commands use only operand values that software may rely on (30_encoding.md R91, R95;
93_implementation_defined.md U4). Every command, well-formed or not, can be encoded, decodes back and runs (R95):
the check is a check on programs, never a premise of the decoder or of the machine (log 26). -/

namespace Sys2Proof

/-- A ball register index that is not reserved: 0 to 4 (R91, R95). -/
def ballIndexOk (r : Byte) : Bool := decide (r.toNat < 5)

/-- A paddle field index that is not reserved: 0 to 2 (R91, R95). -/
def padFieldOk (f : Byte) : Bool := decide (f.toNat < 3)

/-- No reserved operand value is used (R95, U4). -/
def Instr.wellFormed : Instr → Bool
  | .rdb r => ballIndexOk r
  | .wrb r _ => ballIndexOk r
  | .rdp _ f => padFieldOk f
  | .wrp _ f _ => padFieldOk f
  | .nop => true
  | .tickon => true
  | .tickoff => true
  | .step => true
  | .bounce _ => true
  | .walls => true
  | .tick => true
  | .serve => true
  | .sety _ _ => true
  | .gety _ => true
  | .regpt _ => true
  | .chkpt => true
  | .rdsc _ => true
  | .pxset _ _ => true
  | .pxclr _ _ => true
  | .pxtog _ _ => true
  | .lineset _ _ _ _ => true
  | .lineclr _ _ _ _ => true
  | .linetog _ _ _ _ => true
  | .block _ _ _ => true
  | .glyph _ _ _ => true
  | .fbclr => true
  | .rdfb _ => true
  | .rfall => true
  | .rfpx _ _ => true
  | .rfreg _ _ _ _ => true
  | .txcmd _ => true
  | .txdat _ => true
  | .dinit => true

end Sys2Proof
end

