-- ==== Sys2Proof/Safety.lean ====
section
/-! DEFINITION. The terms claims are stated in: a pixel, the invariants of the spec, a display that is ready for a
refresh, a step that stays inside the spec. -/

namespace Sys2Proof.Machine

/-- Pixel (x, y): bit `y mod 8` of `FB[x + 128 * (y div 8)]` (10_state.md R30). -/
def pixel (s : State) (x y : Nat) : Bool := (fbRead s (x + y / 8 * 128)).getLsbD (y % 8)

/-- What a GDDRAM address holds, as far as it is known (10_state.md R31, 93 U5). -/
def Display.shows (d : Display) (a : Nat) : Option Byte := Memory.lookup d.gddram a

/-- FB in canonical form, no address outside 0..1023 (20_memory.md R62). -/
abbrev State.fbWf (s : State) : Prop := Memory.wf (some fbBackground) fbBytes s.fb = true

/-- GDDRAM in canonical form, no address outside 0..1023 (20_memory.md R60). -/
def Sink.wf (k : Sink) : Bool :=
  match k.ctrl with
  | .lost => true
  | .tracked d => Memory.wf gddramBackground fbBytes d.gddram

/-- At most one PEND flag is set (10_state.md R27). -/
abbrev State.pendExclusive (s : State) : Prop := ¬(pend s.score0 = true ∧ pend s.score1 = true)

/-- A value that a signed register of `w` bits can hold (10_state.md R22, 00_scope.md R11). -/
abbrev inWidth (w : Nat) (v : Int) : Prop := -(2 ^ (w - 1)) ≤ v ∧ v < 2 ^ (w - 1)

/-- A paddle's registers are in the range of `w` bits (10_state.md R24). -/
abbrev Paddle.inWidth (w : Nat) (q : Paddle) : Prop := Machine.inWidth w q.pos ∧ Machine.inWidth w q.vel

/-- The ball's registers are in the range of `w` bits (10_state.md R20). -/
abbrev Ball.inWidth (w : Nat) (b : Ball) : Prop :=
  Machine.inWidth w b.px ∧ Machine.inWidth w b.py ∧ Machine.inWidth w b.vx ∧ Machine.inWidth w b.vy ∧
    Machine.inWidth w b.spin

/-- Every ball and paddle register holds a value of W bits (10_state.md R20, R22, R24). -/
abbrev State.regsWf (s : State) : Prop :=
  s.ball.inWidth s.cfg.width ∧ s.pad0.inWidth s.cfg.width ∧ s.pad1.inWidth s.cfg.width

/-- W is at least 16, the smallest width that holds the field of 16384 subpixels (92_eei_decisions.md D1; log 1). -/
abbrev State.widthOk (s : State) : Prop := 16 ≤ s.cfg.width

/-- The invariant every step keeps: every register in its range (10 R20, R24), both memories canonical and inside their
address space (20 R60, R62), at most one PEND flag (10 R27). -/
abbrev State.Inv (s : State) : Prop := s.regsWf ∧ s.fbWf ∧ s.sink.wf = true ∧ s.pendExclusive

/-- The ball's position is inside the field (10_state.md R39 (b)). -/
abbrev Ball.inFieldY (b : Ball) : Prop := 0 ≤ b.py ∧ b.py < yLimit

/-- The ball's horizontal position is between the exits (10_state.md R39 (b)). -/
abbrev Ball.inFieldX (b : Ball) : Prop := 0 ≤ b.px ∧ b.px < xLimit

/-- The display is `d`, in horizontal addressing mode and between two controller commands, and the command bytes are
those of 30_encoding.md R113: the premise of 44_display_transport.md R253. -/
abbrev State.displayReady (s : State) (d : Display) : Prop :=
  s.sink.ctrl = .tracked d ∧ d.addrMode = 0 ∧ d.parse = .idle ∧ s.cfg.opc = Opcodes.standard

end Sys2Proof.Machine

namespace Sys2Proof

/-- The commands whose response carries a value (30_encoding.md R93). -/
def Instr.responds : Instr → Bool
  | .bounce _ => true
  | .walls => true
  | .chkpt => true
  | .gety _ => true
  | .rdb _ => true
  | .rdp _ _ => true
  | .rdsc _ => true
  | .rdfb _ => true
  | _ => false

/-- The commands that write FB (10_state.md R30). -/
def Instr.draws : Instr → Bool
  | .pxset _ _ => true
  | .pxclr _ _ => true
  | .pxtog _ _ => true
  | .lineset _ _ _ _ => true
  | .lineclr _ _ _ _ => true
  | .linetog _ _ _ _ => true
  | .block _ _ _ => true
  | .glyph _ _ _ => true
  | .fbclr => true
  | _ => false

/-- The commands that send serial bytes (44_display_transport.md). -/
def Instr.sends : Instr → Bool
  | .rfall => true
  | .rfpx _ _ => true
  | .rfreg _ _ _ _ => true
  | .txcmd _ => true
  | .txdat _ => true
  | .dinit => true
  | _ => false

/-- The commands that write a ball register (10_state.md R20). -/
def Instr.movesBall : Instr → Bool
  | .step => true
  | .bounce _ => true
  | .walls => true
  | .tick => true
  | .serve => true
  | .wrb _ _ => true
  | _ => false

/-- The commands that write a paddle register (10_state.md R24). -/
def Instr.movesPaddle : Instr → Bool
  | .sety _ _ => true
  | .serve => true
  | .wrp _ _ _ => true
  | _ => false

/-- The commands that write a score register (10_state.md R26). -/
def Instr.scores : Instr → Bool
  | .walls => true
  | .tick => true
  | .regpt _ => true
  | .serve => true
  | _ => false

end Sys2Proof

namespace Sys2Proof.Machine

/-- The reserved opcodes (30_encoding.md R94). -/
abbrev reservedOpcode (op : Nat) : Prop :=
  0x03 ≤ op ∧ op ≤ 0x0F ∨ 0x15 ≤ op ∧ op ≤ 0x17 ∨ 0x1A ≤ op ∧ op ≤ 0x1F ∨ 0x22 ≤ op ∧ op ≤ 0x27 ∨
  0x2A ≤ op ∧ op ≤ 0x2F ∨ 0x32 ≤ op ∧ op ≤ 0x37 ∨ 0x39 ≤ op ∧ op ≤ 0x3F ∨ op = 0x43 ∨ op = 0x47 ∨
  0x4C ≤ op ∧ op ≤ 0x4F ∨ 0x56 ≤ op ∧ op ≤ 0xFF

/-- `n` times the same command. -/
def repeatCommand (i : Instr) : Nat → State → Host.Outcome State Fault Refusal
  | 0, s => .next s
  | n + 1, s =>
    match exec i s with
    | .next t => repeatCommand i n t
    | .fault f => .fault f
    | .refused r => .refused r

/-- Whether the display still follows the spec in `t`, with no undefined event since `s` (93 U7, U8, U9). -/
def displayFollows (s t : State) : Bool := decide (t.sink.ctrl ≠ .lost) && decide (t.sink.freeCount = s.sink.freeCount)

/-- A command word that software may present: no reserved opcode or operand value (93 U4). -/
def commandInSpec (w : Command) : Bool :=
  match decode w with
  | .ok i => i.wellFormed
  | .error _ => false

/-- An action a program may contain (93 U4). -/
def Action.inSpec : Action → Bool
  | .command w => commandInSpec w
  | .tickRequest => true
  | .reset => true
  | .resetDuring w _ => commandInSpec w

/-- A step that stays inside the spec: no reserved opcode or operand (93 U4), at most one PEND flag (U1), no undefined
behaviour of the display (U7, U8, U9). A program that makes only such steps relies on nothing the spec leaves open but
its parameters. -/
def State.stepInSpec (s : State) : Bool :=
  (s.actions.take 1).all Action.inSpec && decide s.pendExclusive &&
  (match step s with
    | .next t => displayFollows s t
    | .fault _ => false
    | .refused _ => false)

/-! ### Shapes of claims -/

/-- Every word whose opcode byte is `op` decodes to the command `i` makes of it (30_encoding.md R92). -/
abbrev Encodes (op : Byte) (i : Command → Instr) : Prop :=
  ∀ w : Command, w.extractLsb' 32 8 = op → decode w = .ok (i w)

/-- The side select `cmd[24]` (30_encoding.md R91, R92). -/
abbrev selectBit (w : Command) : Side := if w.getLsbD 24 then .right else .left

/-- The bits of a command word that its command uses: the opcode and the fields R92 lists for it. -/
def operandMask : Instr → Command
  | .nop => 0xFF00000000
  | .tickon => 0xFF00000000
  | .tickoff => 0xFF00000000
  | .step => 0xFF00000000
  | .bounce _ => 0xFF01000000
  | .walls => 0xFF00000000
  | .tick => 0xFF00000000
  | .serve => 0xFF00000000
  | .rdb _ => 0xFFFF000000
  | .wrb _ _ => 0xFFFF00FFFF
  | .sety _ _ => 0xFF0100FFFF
  | .gety _ => 0xFF01000000
  | .rdp _ _ => 0xFF01FF0000
  | .wrp _ _ _ => 0xFF01FFFFFF
  | .regpt _ => 0xFF01000000
  | .chkpt => 0xFF00000000
  | .rdsc _ => 0xFF01000000
  | .pxset _ _ => 0xFFFFFF0000
  | .pxclr _ _ => 0xFFFFFF0000
  | .pxtog _ _ => 0xFFFFFF0000
  | .lineset _ _ _ _ => 0xFFFFFFFFFF
  | .lineclr _ _ _ _ => 0xFFFFFFFFFF
  | .linetog _ _ _ _ => 0xFFFFFFFFFF
  | .block _ _ _ => 0xFFFFFFFF00
  | .glyph _ _ _ => 0xFFFFFFFF00
  | .fbclr => 0xFF00000000
  | .rdfb _ => 0xFF0000FFFF
  | .rfall => 0xFF00000000
  | .rfpx _ _ => 0xFFFFFF0000
  | .rfreg _ _ _ _ => 0xFFFFFFFFFF
  | .txcmd _ => 0xFFFF000000
  | .txdat _ => 0xFFFF000000
  | .dinit => 0xFF00000000

/-- `i` completes with response 0x0000 and changes nothing but FB: the bytes at addresses that are not `stored` read as
before, and the pixels of the field become `px`. -/
abbrev DrawsExactly (i : Instr) (s : State) (stored : Nat → Prop) (px : Nat → Nat → Bool) : Prop :=
  ∃ t, exec i s = .next t ∧ t = { s with fb := t.fb, resps := s.resps ++ [0x0000] } ∧ t.fbWf ∧
    (∀ a, ¬ stored a → fbRead t a = fbRead s a) ∧ ∀ x y, x < 128 → y < 64 → pixel t x y = px x y

/-- The addresses BlockWrite at (x, y) stores to: one byte on a page boundary, else the two adjacent page-bytes, the
lower one only inside the field (43_framebuffer.md R210). -/
abbrev blockStores (x y : Nat) (a : Nat) : Prop :=
  x < 128 ∧ y < 64 ∧ (a = pixAddr x y ∨ y % 8 ≠ 0 ∧ y / 8 < 7 ∧ a = pixAddr x y + 128)

/-- A ramp of `n` samples of step `d` that does not wrap: with 16-bit registers a sample and its difference wrap alike,
else the samples must fit the 16-bit immediate (41_paddle_tracker.md R173). -/
abbrev rampFits (p : Side) (d : Int) (n : Nat) (s : State) : Prop :=
  s.cfg.width = 16 ∨ (inWidth 16 (s.pad p).pos ∧ inWidth 16 ((s.pad p).pos + n * d))

/-- `n` samples for paddle `p`, each `d` above the paddle's position (41_paddle_tracker.md R173). -/
def rampSamples (p : Side) (d : Int) : Nat → State → Host.Outcome State Fault Refusal
  | 0, s => .next s
  | n + 1, s =>
    match exec (.sety p (BitVec.ofInt 16 ((s.pad p).pos + d))) s with
    | .next t => rampSamples p d n t
    | .fault f => .fault f
    | .refused r => .refused r

end Sys2Proof.Machine
end

