-- ==== Sys2Proof/Certificates/Slice0/Obligations.lean ====
section
/-! DEFINITION. The statements about PONGCORE for the provers. A statement of a command's effect is an equation
`exec i s = .next t` with `t` written out, so that it also says that the command completes and what it leaves alone.
Register arithmetic is written here on words of W = `s.cfg.width` bits (`sdiv` truncates toward zero and every
operation wraps), the model computes on integers. W is at least 16 (`State.widthOk`, 92_eei_decisions.md D1) where a
statement needs room for the field. -/

open Sys2Proof Sys2Proof.Machine

/-! ### Encoding -/

/-- Words written out from the encodings of 30_encoding.md R92 decode to the commands they stand for, one or more per
family. -/
def Obligations.DecodeReadsWrittenWords : Prop :=
  decode 0x0000000000 = .ok .nop ∧
  decode 0x1900FFFFD0 = .ok (.wrb 0 0xFFD0) ∧
  decode 0x29010001E0 = .ok (.wrp .right 0 480) ∧
  decode 0x1101000000 = .ok (.bounce .right) ∧
  decode 0x10FFFFFFFF = .ok .step ∧
  decode 0x20010001E0 = .ok (.sety .right 480) ∧
  decode 0x3003000000 = .ok (.regpt .right) ∧
  decode 0x4400030506 = .ok (.lineset 0 3 5 6) ∧
  decode 0x48030AA500 = .ok (.block 3 10 0xA5) ∧
  decode 0x4B00000103 = .ok (.rdfb 259) ∧
  decode 0x52040A030B = .ok (.rfreg 4 10 3 11) ∧
  decode 0x53AE000000 = .ok (.txcmd 0xAE)

/-- A word decodes to a command exactly when the bits the command uses are those of its encoding; so every command
decodes back from its encoding, whatever stands in the ignored bits. -/
def Obligations.WordDecodesExactlyToItsEncoding : Prop :=
  (∀ i : Instr, decode (encode i) = .ok i) ∧
  ∀ (w : Command) (i : Instr), decode w = .ok i ↔ w &&& operandMask i = encode i

/-- The opcode map of 30_encoding.md R92 with the operand bits of each command. -/
def Obligations.OpcodeMap : Prop :=
  Encodes 0x00 (fun _ => .nop) ∧ Encodes 0x01 (fun _ => .tickon) ∧ Encodes 0x02 (fun _ => .tickoff) ∧
  Encodes 0x10 (fun _ => .step) ∧ Encodes 0x11 (fun w => .bounce (selectBit w)) ∧ Encodes 0x12 (fun _ => .walls) ∧
  Encodes 0x13 (fun _ => .tick) ∧ Encodes 0x14 (fun _ => .serve) ∧
  Encodes 0x18 (fun w => .rdb (w.extractLsb' 24 8)) ∧
  Encodes 0x19 (fun w => .wrb (w.extractLsb' 24 8) (w.extractLsb' 0 16)) ∧
  Encodes 0x20 (fun w => .sety (selectBit w) (w.extractLsb' 0 16)) ∧ Encodes 0x21 (fun w => .gety (selectBit w)) ∧
  Encodes 0x28 (fun w => .rdp (selectBit w) (w.extractLsb' 16 8)) ∧
  Encodes 0x29 (fun w => .wrp (selectBit w) (w.extractLsb' 16 8) (w.extractLsb' 0 16)) ∧
  Encodes 0x30 (fun w => .regpt (selectBit w)) ∧ Encodes 0x31 (fun _ => .chkpt) ∧
  Encodes 0x38 (fun w => .rdsc (selectBit w)) ∧
  Encodes 0x40 (fun w => .pxset (w.extractLsb' 24 8) (w.extractLsb' 16 8)) ∧
  Encodes 0x41 (fun w => .pxclr (w.extractLsb' 24 8) (w.extractLsb' 16 8)) ∧
  Encodes 0x42 (fun w => .pxtog (w.extractLsb' 24 8) (w.extractLsb' 16 8)) ∧
  Encodes 0x44 (fun w =>
    .lineset (w.extractLsb' 24 8) (w.extractLsb' 16 8) (w.extractLsb' 8 8) (w.extractLsb' 0 8)) ∧
  Encodes 0x45 (fun w =>
    .lineclr (w.extractLsb' 24 8) (w.extractLsb' 16 8) (w.extractLsb' 8 8) (w.extractLsb' 0 8)) ∧
  Encodes 0x46 (fun w =>
    .linetog (w.extractLsb' 24 8) (w.extractLsb' 16 8) (w.extractLsb' 8 8) (w.extractLsb' 0 8)) ∧
  Encodes 0x48 (fun w => .block (w.extractLsb' 24 8) (w.extractLsb' 16 8) (w.extractLsb' 8 8)) ∧
  Encodes 0x49 (fun w => .glyph (w.extractLsb' 24 8) (w.extractLsb' 16 8) (w.extractLsb' 8 8)) ∧
  Encodes 0x4A (fun _ => .fbclr) ∧ Encodes 0x4B (fun w => .rdfb (w.extractLsb' 0 16)) ∧
  Encodes 0x50 (fun _ => .rfall) ∧ Encodes 0x51 (fun w => .rfpx (w.extractLsb' 24 8) (w.extractLsb' 16 8)) ∧
  Encodes 0x52 (fun w =>
    .rfreg (w.extractLsb' 24 8) (w.extractLsb' 16 8) (w.extractLsb' 8 8) (w.extractLsb' 0 8)) ∧
  Encodes 0x53 (fun w => .txcmd (w.extractLsb' 24 8)) ∧ Encodes 0x54 (fun w => .txdat (w.extractLsb' 24 8)) ∧
  Encodes 0x55 (fun _ => .dinit) ∧
  ∀ w : Command, reservedOpcode (w.extractLsb' 32 8).toNat → ∀ i, decode w ≠ .ok i

/-- A word is no command of the map exactly when its opcode is reserved; it then executes as NOP (30_encoding.md R94). -/
def Obligations.ReservedOpcodesExecuteAsNop : Prop :=
  (∀ w : Command, (∃ i, decode w = .ok i) ↔ ¬ reservedOpcode (w.extractLsb' 32 8).toNat) ∧
  ∀ (w : Command) (s : State), reservedOpcode (w.extractLsb' 32 8).toNat →
    runCommand w s = .next { s with resps := s.resps ++ [0x0000] } ∧ runCommand w s = exec .nop s

/-! ### Steps -/

/-- A step whose next action is a command runs the decoded command, after the action is taken and the command index has
advanced by 1; the same for a word placed by `withFetchWord`. -/
def Obligations.StepRunsDecodedCommand : Prop :=
  (∀ (s : State) (w : Command) (rest : List Action) (i : Instr), s.actions = .command w :: rest →
    decode w = .ok i → step s = exec i { s with actions := rest, ci := s.ci + 1 }) ∧
  ∀ (s : State) (nbits w : Nat) (i : Instr), decodeTableWord nbits w = some i →
    step (s.withFetchWord nbits w) = exec i { s with ci := s.ci + 1 }

/-- A tick request runs the tick sequence without a response while ticks are enabled, else it is dropped
(60_exceptions.md R293); the machine is idle before it and executes meanwhile, or stays idle. -/
def Obligations.TickRequestRunsOrIsDropped : Prop :=
  ∀ (s : State) (rest : List Action), s.actions = .tickRequest :: rest →
    (s.tickEn = true → (∃ t, exec .tick { s with actions := rest } = .next t ∧
      step s = .next { t with resps := s.resps }) ∧ s.phases = [.idle, .executing Pins.idle]) ∧
    (s.tickEn = false → step s = .next { s with actions := rest } ∧ s.phases = [.idle])

/-- With no action to come the machine is idle and stays as it is: the model's reading of 00_scope.md R16 (log 4).
An idle machine has `cmd_ready` high and accepts a command or a tick (20_memory.md R70). -/
def Obligations.IdleMachineStays : Prop :=
  ∀ s : State, s.actions = [] →
    step s = .next s ∧ s.phases = [.idle] ∧ Phase.idle.ports.cmdReady = some true ∧ Phase.idle.accepts = true

/-- What the action `rst` leaves: PONGCORE at its reset values with a new run of outputs, the display as it was unless
the platform wires the reset to it (the model's form of 70_reset_and_hazards.md R320, log 14). While `rst` is asserted
`cmd_ready` is low, `spi_cs_n` is high, there is no response, and no command and no tick is accepted. -/
def Obligations.ResetStartsANewRun : Prop :=
  ∀ (s : State) (rest : List Action), s.actions = .reset :: rest →
    step s = .next { State.resetWith s.cfg with
      actions := rest
      sink := if s.cfg.rstResetsDisplay then ⟨.tracked Display.reset, s.sink.freeCount⟩ else s.sink } ∧
    s.phases = [.idle, .inReset] ∧ Phase.inReset.ports.cmdReady = some false ∧
    Phase.inReset.ports.spi.csN = true ∧ Phase.inReset.ports.respValid = false ∧ Phase.inReset.accepts = false

/-- A reset that abandons a command after `sent` of its bytes: no effect of the command remains in PONGCORE, and the
display has seen exactly those bytes (the model's form of 70_reset_and_hazards.md R320, log 15). On the ports the bits of
those bytes appear, no response follows, and then `rst` is asserted. -/
def Obligations.AbandonedCommandReachesDisplayOnly : Prop :=
  ∀ (s : State) (w : Command) (sent : Nat) (rest : List Action), s.actions = .resetDuring w sent :: rest →
    ∃ t bytes pins, runCommand w { s with actions := rest } = .next t ∧ t.txlog = s.txlog ++ bytes ∧
      (s.cfg.rstResetsDisplay = false → step s = .next { State.resetWith s.cfg with
        actions := rest, sink := sinkBytes s.cfg.opc s.sink (bytes.take sent) }) ∧
      (s.cfg.rstResetsDisplay = true → ∃ n, step s = .next { State.resetWith s.cfg with
        actions := rest, sink := ⟨.tracked Display.reset, n⟩ }) ∧
      s.phases = .idle :: (pins.map .executing ++ [.inReset]) ∧
      samples pins = (bytes.take sent).flatMap fun b =>
        (List.range 8).map fun i => (some (decide (b.dc = .data)), some (b.byte.getLsbD (7 - i)))

/-- The reset values that 10_state.md R38 gives, for every choice of the parameters and with the defaults; nothing is
said of the elements it leaves unspecified. -/
def Obligations.ResetValues : Prop :=
  State.reset = State.resetWith Config.default ∧
  State.reset.ball = ⟨256, 4096, 3072, 0, 0⟩ ∧ State.reset.pad0 = ⟨512, 0⟩ ∧ State.reset.pad1 = ⟨512, 0⟩ ∧
  ∀ cfg : Config,
    (State.resetWith cfg).ball =
      ⟨wrapW cfg.width cfg.serveXLeft, wrapW cfg.width cfg.serveY, wrapW cfg.width cfg.initSpeed, 0, 0⟩ ∧
    (State.resetWith cfg).pad0 = ⟨wrapW cfg.width cfg.paddleInitPos, 0⟩ ∧
    (State.resetWith cfg).pad1 = ⟨wrapW cfg.width cfg.paddleInitPos, 0⟩ ∧
    (State.resetWith cfg).score0 = 0x00 ∧ (State.resetWith cfg).score1 = 0x00 ∧
    (State.resetWith cfg).tickEn = false ∧ (∀ a, fbRead (State.resetWith cfg) a = 0x00) ∧
    (State.resetWith cfg).txlog = [] ∧
    ∃ d, (State.resetWith cfg).sink.ctrl = .tracked d ∧
      d.colStart = 0 ∧ d.pageStart = 0 ∧ d.col = 0 ∧ d.page = 0 ∧ d.colEnd = 127 ∧ d.pageEnd = 7 ∧
      d.addrMode = 2 ∧ d.on = 0 ∧ d.parse = .idle

/-- No command faults or is refused, nor does any word or any step (60_exceptions.md R290). -/
def Obligations.NoCommandFaultsOrIsRefused : Prop :=
  IsEmpty Fault ∧ (∀ (i : Instr) (s : State), ∃ t, exec i s = .next t) ∧
  (∀ (w : Command) (s : State), ∃ t, runCommand w s = .next t) ∧ ∀ s : State, ∃ t, step s = .next t

/-! ### Properties of all commands -/

/-- Every command appends exactly one response word, 0x0000 unless it returns a value (30_encoding.md R93). -/
def Obligations.OneResponsePerCommand : Prop :=
  ∀ (i : Instr) (s : State), ∃ t r, exec i s = .next t ∧ t.resps = s.resps ++ [r] ∧ (i.responds = false → r = 0x0000)

/-- No command reads an earlier response, the actions to come or the command index, and none writes the actions, the
index or a parameter. -/
def Obligations.CommandsIgnoreTheRun : Prop :=
  ∀ (i : Instr) (s : State) (resps : List Word) (actions : List Action) (ci : Nat),
    ∃ t r, exec i s = .next t ∧ t.resps = s.resps ++ [r] ∧ t.actions = s.actions ∧ t.ci = s.ci ∧ t.cfg = s.cfg ∧
      exec i { s with resps := resps, actions := actions, ci := ci } =
        .next { t with resps := resps ++ [r], actions := actions, ci := ci }

/-- PONGCORE never depends on the display: with another display state, a command has the same effect on everything
else (the serial channel has no data input, 00_scope.md R9, R16). -/
def Obligations.PongcoreIgnoresTheDisplay : Prop :=
  ∀ (i : Instr) (s : State) (k : Sink), ∃ t k', exec i s = .next t ∧
    exec i { s with sink := k } = .next { t with sink := k' }

/-- Each piece of state is changed only by the commands that 10_state.md lists as its writers. -/
def Obligations.OnlyTheirWritersChangeState : Prop :=
  ∀ (i : Instr) (s : State), ∃ t, exec i s = .next t ∧
    (i.movesBall = false → t.ball = s.ball) ∧
    (i.movesPaddle = false → t.pad0 = s.pad0 ∧ t.pad1 = s.pad1) ∧
    (i.scores = false → t.score0 = s.score0 ∧ t.score1 = s.score1) ∧
    (i ≠ .tickon → i ≠ .tickoff → t.tickEn = s.tickEn) ∧
    (i.draws = false → t.fb = s.fb) ∧
    (i.sends = false → t.txlog = s.txlog ∧ t.sink = s.sink)

/-- The invariant of `InvariantKeptByStep` holds after reset, for every choice of the parameters. -/
def Obligations.InvariantAtReset : Prop :=
  ∀ cfg : Config, (State.resetWith cfg).Inv

/-- Every step keeps every ball and paddle register inside its W bits, for every W, keeps both memories canonical and
inside their 1024 addresses, and keeps at most one PEND flag set (10_state.md R20, R24, R27; 20_memory.md R60, R62). -/
def Obligations.InvariantKeptByStep : Prop :=
  ∀ s : State, s.Inv → ∃ t, step s = .next t ∧ t.Inv

/-- A count only rises, by one, for one side at a time, and only when no point is pending; only SERVE clears PEND. -/
def Obligations.CountsRiseByAtMostOne : Prop :=
  ∀ (i : Instr) (s : State), s.pendExclusive → ∃ t, exec i s = .next t ∧
    (∀ p, count (t.score p) = count (s.score p) ∨
      count (t.score p) = count (s.score p) + 1 ∧ pend (t.score p) = true ∧
        pend s.score0 = false ∧ pend s.score1 = false) ∧
    (t.score0 = s.score0 ∨ t.score1 = s.score1 ∨ i = .serve) ∧
    ∀ p, pend (s.score p) = true → pend (t.score p) = false → i = .serve

/-! ### Ball -/

/-- STEP: the four lines of 40_ball_physics.md R130 in W-bit arithmetic, on registers that hold W-bit values. -/
def Obligations.StepIntegratesBall : Prop :=
  Encodes 0x10 (fun _ => .step) ∧
  ∀ s : State, s.widthOk → s.regsWf →
    let word := BitVec.ofInt s.cfg.width
    let spin := word s.ball.spin - (word s.ball.spin).sdiv 384
    let coupled := if 0 < s.ball.vx then word s.ball.vy + spin.sdiv 48 else word s.ball.vy - spin.sdiv 48
    let vy := coupled - coupled.sdiv 192
    exec .step s = .next { s with
      ball := {
        px := (word s.ball.px + (word s.ball.vx).sdiv 64).toInt
        py := (word s.ball.py + vy.sdiv 64).toInt
        vx := s.ball.vx
        vy := vy.toInt
        spin := spin.toInt }
      resps := s.resps ++ [0x0000] }

/-- The decay of the spin under STEP, and of the vertical velocity when the spin no longer couples
(40_ball_physics.md R131), for every W of at least 16. -/
def Obligations.SpinDecaysAndSettles : Prop :=
  (∀ s : State, s.widthOk → s.regsWf → ∃ t, exec .step s = .next t ∧
    (0 < s.ball.spin → 0 < t.ball.spin) ∧ (s.ball.spin < 0 → t.ball.spin < 0) ∧
    (384 ≤ |s.ball.spin| → |t.ball.spin| < |s.ball.spin|) ∧
    (|s.ball.spin| ≤ 383 → t.ball.spin = s.ball.spin) ∧
    (|s.ball.spin| ≤ 47 →
      (0 < s.ball.vy → 0 < t.ball.vy) ∧ (s.ball.vy < 0 → t.ball.vy < 0) ∧
      (192 ≤ |s.ball.vy| → |t.ball.vy| < |s.ball.vy|) ∧
      (|s.ball.vy| ≤ 191 → t.ball.vy = s.ball.vy))) ∧
  (∀ s : State, s.widthOk → s.regsWf → ∃ v : Int, |v| ≤ 383 ∧ ∃ N, ∀ n, N ≤ n →
    ∃ t, repeatCommand .step n s = .next t ∧ t.ball.spin = v) ∧
  ∀ s : State, s.widthOk → s.ball.spin = 32767 →
    (∃ t, repeatCommand .step 1924 s = .next t ∧ 383 < t.ball.spin) ∧
    ∃ t, repeatCommand .step 1925 s = .next t ∧ t.ball.spin = 383

/-- BOUNCE: the contact test and the five registers after a contact, in W-bit arithmetic; otherwise no effect
(40_ball_physics.md R135). -/
def Obligations.BounceReflectsBall : Prop :=
  Encodes 0x11 (fun w => .bounce (selectBit w)) ∧
  ∀ (p : Side) (s : State), s.widthOk →
    let word := BitVec.ofInt s.cfg.width
    let off := s.ball.py.tdiv 128 - ((s.pad p).pos / 16 - 4)
    let pv := word (s.pad p).vel
    let m :=
      if off = 0 ∨ off = 7 then s.cfg.kickMag0 else if off = 1 ∨ off = 6 then s.cfg.kickMag1
      else if off = 2 ∨ off = 5 then s.cfg.kickMag2 else s.cfg.kickMag3
    let kick := if off < 4 then -word m else word m
    (s.ball.px.tdiv 128 = (laneOf s.cfg p).toNat ∧ 0 ≤ off ∧ off < 8 →
      exec (.bounce p) s = .next { s with
        ball := {
          px := (if p = .left then word s.ball.px + 128 else word s.ball.px - 128).toInt
          py := s.ball.py
          vx := (-word s.ball.vx).toInt
          vy := ((3 * word s.ball.vy + kick).sdiv 4 + word s.cfg.englishGain * pv).toInt
          spin :=
            (if p = .left then word s.ball.spin + word s.cfg.spinGain * pv
             else word s.ball.spin - word s.cfg.spinGain * pv).toInt }
        resps := s.resps ++ [0x0001] }) ∧
    (¬(s.ball.px.tdiv 128 = (laneOf s.cfg p).toNat ∧ 0 ≤ off ∧ off < 8) →
      exec (.bounce p) s = .next { s with resps := s.resps ++ [0x0000] })

/-- With a lane that is not column 0 a second BOUNCE on the same paddle does nothing, whatever the first one did
(40_ball_physics.md R135, corner case (a)). -/
def Obligations.BounceDoesNotRetrigger : Prop :=
  ∀ (p : Side) (s : State), s.widthOk → laneOf s.cfg p ≠ 0 →
    ∃ t, exec (.bounce p) s = .next t ∧ exec (.bounce p) t = .next { t with resps := t.resps ++ [0x0000] }

/-- A ball in the field with |VX| ≤ 8191 does not cross the column of a lane in one STEP, and a faster one can
(40_ball_physics.md R136). -/
def Obligations.SlowBallCannotSkipLane : Prop :=
  (∀ (s : State) (lane : BitVec 7), s.widthOk → s.ball.inFieldX → |s.ball.vx| ≤ 8191 →
    ∃ t, exec .step s = .next t ∧ |t.ball.px - s.ball.px| < 128 ∧
      ¬(s.ball.px < 128 * lane.toNat ∧ 128 * lane.toNat + 128 ≤ t.ball.px) ∧
      ¬(128 * lane.toNat + 128 ≤ s.ball.px ∧ t.ball.px < 128 * lane.toNat)) ∧
  ∀ lane : BitVec 7, lane ≠ 0 → ∃ s t : State, s.regsWf ∧ s.ball.inFieldX ∧ exec .step s = .next t ∧
    s.ball.px < 128 * lane.toNat ∧ 128 * lane.toNat + 128 ≤ t.ball.px

/-- WALLS: the horizontal exit first, with its point, then the vertical reflection on what the exit left; every value
written is wrapped to W bits (40_ball_physics.md R140). -/
def Obligations.WallsResolveExitsAndReflections : Prop :=
  Encodes 0x12 (fun _ => .walls) ∧
  ∀ s : State, s.widthOk → s.pendExclusive →
    let playing := pend s.score0 = false ∧ pend s.score1 = false
    let wrap := wrapW s.cfg.width
    let h : State :=
      if s.ball.px < 0 then
        { s with
          ball := ⟨16128, s.ball.py, wrap (-s.cfg.initSpeed), 0, 0⟩
          score1 := if playing then (s.score1 + 1) ||| 0x80 else s.score1 }
      else if 16384 ≤ s.ball.px then
        { s with
          ball := ⟨wrap s.cfg.serveXLeft, s.ball.py, wrap s.cfg.initSpeed, 0, 0⟩
          score0 := if playing then (s.score0 + 1) ||| 0x80 else s.score0 }
      else s
    exec .walls s = .next
      (if s.ball.py < 0 then
        { h with
          ball := { h.ball with py := wrap (-s.ball.py), vy := wrap (-h.ball.vy) }
          resps := s.resps ++ [0x0001] }
      else if 8192 ≤ s.ball.py then
        { h with
          ball := { h.ball with py := 8191 - s.ball.py % 8192, vy := wrap (-h.ball.vy) }
          resps := s.resps ++ [0x0001] }
      else { h with resps := s.resps ++ [0x0000] })

/-- What WALLS guarantees: a vertical position out of range by less than a field at the top, or by any amount at the
bottom, comes back in range with the sign of VY flipped, unless VY is 0 or the most negative register value (-32768
for W = 16), and a horizontal exit leaves a serve (40_ball_physics.md R141). -/
def Obligations.WallReflectionBringsBallBack : Prop :=
  (∀ s : State, s.widthOk → s.regsWf → (-8191 ≤ s.ball.py ∧ s.ball.py ≤ -1 ∨ 8192 ≤ s.ball.py) →
    ∃ t, exec .walls s = .next t ∧ t.ball.inFieldY ∧ t.resps = s.resps ++ [0x0001] ∧
      (s.ball.inFieldX →
        (0 < s.ball.vy → t.ball.vy < 0) ∧
        (s.ball.vy < 0 → s.ball.vy ≠ -(2 ^ (s.cfg.width - 1)) → 0 < t.ball.vy))) ∧
  ∀ s : State, s.widthOk → ¬ s.ball.inFieldX →
    ∃ t, exec .walls s = .next t ∧ t.ball.vy = 0 ∧ t.ball.spin = 0 ∧
      (s.ball.px < 0 → t.ball.px = 16128 ∧ t.ball.vx = wrapW s.cfg.width (-s.cfg.initSpeed)) ∧
      (16384 ≤ s.ball.px →
        t.ball.px = wrapW s.cfg.width s.cfg.serveXLeft ∧ t.ball.vx = wrapW s.cfg.width s.cfg.initSpeed)

/-- TICK is STEP, BOUNCE 0, BOUNCE 1 and WALLS in this order with their responses discarded, whatever TICK_EN is; an
accepted tick request is the same sequence without a response (40_ball_physics.md R150). -/
def Obligations.TickIsItsFourCommands : Prop :=
  Encodes 0x13 (fun _ => .tick) ∧
  ∀ s : State, ∃ t1 t2 t3 t4, exec .step s = .next t1 ∧ exec (.bounce .left) t1 = .next t2 ∧
    exec (.bounce .right) t2 = .next t3 ∧ exec .walls t3 = .next t4 ∧
    exec .tick s = .next { t4 with resps := s.resps ++ [0x0000] } ∧
    ∀ (r : State) (rest : List Action), r.actions = .tickRequest :: rest → r.tickEn = true →
      s = { r with actions := rest } → step r = .next { t4 with resps := r.resps }

/-- A tick that starts with the ball vertically in the field ends with it in the field on both axes (10_state.md
R39 (b)), for W from 16 to 20: a register of 21 bits holds vertical velocities of more than a field per tick, and a top
overshoot of more than a field is reflected beyond the field (40_ball_physics.md R140). -/
def Obligations.TickKeepsBallInField : Prop :=
  ∀ s : State, s.widthOk → s.cfg.width ≤ 20 → s.regsWf → s.ball.inFieldY → 0 ≤ s.cfg.serveXLeft →
    s.cfg.serveXLeft < 16384 → ∃ t, exec .tick s = .next t ∧ t.ball.inFieldY ∧ t.ball.inFieldX

/-- An accepted tick changes the ball registers and, when STEP and the two BOUNCEs leave the ball beyond a side, at most
the score register of the other side; nothing else (60_exceptions.md R295). -/
def Obligations.TickTouchesBallAndOneScore : Prop :=
  ∀ (s : State) (rest : List Action), s.actions = .tickRequest :: rest → s.tickEn = true → s.pendExclusive →
    ∃ t1 t2 t3 ball score0 score1, exec .step s = .next t1 ∧ exec (.bounce .left) t1 = .next t2 ∧
      exec (.bounce .right) t2 = .next t3 ∧
      step s = .next { s with actions := rest, ball := ball, score0 := score0, score1 := score1 } ∧
      (score0 ≠ s.score0 → 16384 ≤ t3.ball.px ∧ score1 = s.score1) ∧
      (score1 ≠ s.score1 → t3.ball.px < 0 ∧ score0 = s.score0)

/-- SERVE: the flags cleared, the ball placed for the side whose point is pending, both paddles re-initialised
(40_ball_physics.md R155). -/
def Obligations.ServeConsumesPoint : Prop :=
  Encodes 0x14 (fun _ => .serve) ∧
  ∀ s : State, s.widthOk → s.pendExclusive →
    let wrap := wrapW s.cfg.width
    exec .serve s = .next { s with
      ball :=
        if pend s.score1 then ⟨16128, wrap s.cfg.serveY, wrap (-s.cfg.initSpeed), 0, 0⟩
        else ⟨wrap s.cfg.serveXLeft, wrap s.cfg.serveY, wrap s.cfg.initSpeed, 0, 0⟩
      pad0 := ⟨wrap s.cfg.paddleInitPos, 0⟩
      pad1 := ⟨wrap s.cfg.paddleInitPos, 0⟩
      score0 := s.score0 &&& 0x7F
      score1 := s.score1 &&& 0x7F
      resps := s.resps ++ [0x0000] }

/-! ### Paddles -/

/-- SETY: the velocity from the old position first, the sample stored second, in W-bit arithmetic; the other paddle is
left alone (41_paddle_tracker.md R171). -/
def Obligations.SetySmoothsVelocity : Prop :=
  Encodes 0x20 (fun w => .sety (selectBit w) (w.extractLsb' 0 16)) ∧
  ∀ (p : Side) (raw : Word) (s : State), s.widthOk →
    let word := BitVec.ofInt s.cfg.width
    let after := fun q : Paddle =>
      (⟨raw.toInt, ((3 * word q.vel + (word raw.toInt - word q.pos)).sdiv 4).toInt⟩ : Paddle)
    exec (.sety p raw) s = .next { s with
      pad0 := if p = .left then after s.pad0 else s.pad0
      pad1 := if p = .right then after s.pad1 else s.pad1
      resps := s.resps ++ [0x0000] }

/-- GETY: the position shifted right arithmetically by 4, for every row that a 16-bit response can show, which is every
row while W is at most 20 (41_paddle_tracker.md R172). -/
def Obligations.GetyRespondsPixelRow : Prop :=
  Encodes 0x21 (fun w => .gety (selectBit w)) ∧
  ∀ (p : Side) (s : State), inWidth 16 ((s.pad p).pos / 16) →
    ∃ r : Word, r.toInt = (s.pad p).pos / 16 ∧ exec (.gety p) s = .next { s with resps := s.resps ++ [r] }

/-- The limits of the smoother (41_paddle_tracker.md R173), for every W of at least 16: constant samples bring the
velocity to 0 for ever; a ramp of step d whose samples do not wrap has the fixed points d - 3 to d, is approached from 0
without falling and settles at max (d - 3) 0, from above at d, and for a falling ramp from 0 at min (d + 3) 0. -/
def Obligations.SmootherLimits : Prop :=
  (∀ (p : Side) (raw : Word) (s : State) (n : Nat), s.widthOk → 3 * s.cfg.width ≤ n →
    ∃ t, repeatCommand (.sety p raw) n s = .next t ∧ t.pad p = ⟨raw.toInt, 0⟩) ∧
  (∀ (p : Side) (d : Int) (s : State), s.widthOk → rampFits p d 1 s → 0 < d → d ≤ 1023 → 0 ≤ (s.pad p).vel →
    (s.pad p).vel ≤ 1023 →
    ∃ t, rampSamples p d 1 s = .next t ∧
      ((t.pad p).vel = (s.pad p).vel ↔ d - 3 ≤ (s.pad p).vel ∧ (s.pad p).vel ≤ d)) ∧
  (∀ (p : Side) (d : Int) (s : State), s.widthOk → 0 < d → d ≤ 1023 → (s.pad p).vel = 0 →
    (∀ n, rampFits p d (n + 1) s → ∃ t u, rampSamples p d n s = .next t ∧ rampSamples p d (n + 1) s = .next u ∧
      (t.pad p).vel ≤ (u.pad p).vel) ∧
    ∀ n, 32 ≤ n → rampFits p d n s →
      ∃ t, rampSamples p d n s = .next t ∧ (t.pad p).vel = max (d - 3) 0) ∧
  (∀ (p : Side) (d : Int) (s : State), s.widthOk → 0 < d → d < (s.pad p).vel → (s.pad p).vel ≤ 1023 →
    ∀ n, 32 ≤ n → rampFits p d n s → ∃ t, rampSamples p d n s = .next t ∧ (t.pad p).vel = d) ∧
  ∀ (p : Side) (d : Int) (s : State), s.widthOk → d < 0 → -1023 ≤ d → (s.pad p).vel = 0 →
    ∀ n, 32 ≤ n → rampFits p d n s →
      ∃ t, rampSamples p d n s = .next t ∧ (t.pad p).vel = min (d + 3) 0

/-! ### Scores -/

/-- REGPT: the count rises by one modulo 128 and the flag is set unless a point is pending for either side; a second
point before consumption changes nothing (42_score.md R185). -/
def Obligations.RegptCountsUnlessPending : Prop :=
  Encodes 0x30 (fun w => .regpt (selectBit w)) ∧
  (∀ (p : Side) (s : State), pend s.score0 = false → pend s.score1 = false →
    let after := fun v : Byte => 0x80#8 + (v + 1) % 128
    exec (.regpt p) s = .next { s with
      score0 := if p = .left then after s.score0 else s.score0
      score1 := if p = .right then after s.score1 else s.score1
      resps := s.resps ++ [0x0000] }) ∧
  (∀ (p : Side) (s : State), s.pendExclusive → pend s.score0 = true ∨ pend s.score1 = true →
    exec (.regpt p) s = .next { s with resps := s.resps ++ [0x0000] }) ∧
  ∀ (p q : Side) (s : State), s.pendExclusive → ∃ t, exec (.regpt p) s = .next t ∧
    exec (.regpt q) t = .next { t with resps := t.resps ++ [0x0000] }

/-- CHKPT responds the two PEND flags and RDSC a score register whole, without side effects (42_score.md R186, R187). -/
def Obligations.ChkptAndRdscReadScores : Prop :=
  Encodes 0x31 (fun _ => .chkpt) ∧ Encodes 0x38 (fun w => .rdsc (selectBit w)) ∧
  (∀ s : State, s.pendExclusive →
    exec .chkpt s = .next { s with
      resps := s.resps ++ [if pend s.score1 then 0x0002 else if pend s.score0 then 0x0001 else 0x0000] }) ∧
  ∀ (p : Side) (s : State), exec (.rdsc p) s = .next { s with resps := s.resps ++ [(s.score p).zeroExtend 16] }

/-! ### Framebuffer -/

/-- PXSET, PXCLR and PXTOG set, clear and invert one pixel; every other pixel and every byte but the one addressed keep
their value, and a point outside the field changes nothing (43_framebuffer.md R200 to R203). -/
def Obligations.PixelCommandsChangeOnePixel : Prop :=
  Encodes 0x40 (fun w => .pxset (w.extractLsb' 24 8) (w.extractLsb' 16 8)) ∧
  Encodes 0x41 (fun w => .pxclr (w.extractLsb' 24 8) (w.extractLsb' 16 8)) ∧
  Encodes 0x42 (fun w => .pxtog (w.extractLsb' 24 8) (w.extractLsb' 16 8)) ∧
  ∀ (x y : Byte) (s : State), s.fbWf →
    let stored := fun a => x.toNat < 128 ∧ y.toNat < 64 ∧ a = pixAddr x.toNat y.toNat
    DrawsExactly (.pxset x y) s stored (fun u v => if u = x.toNat ∧ v = y.toNat then true else pixel s u v) ∧
    DrawsExactly (.pxclr x y) s stored (fun u v => if u = x.toNat ∧ v = y.toNat then false else pixel s u v) ∧
    DrawsExactly (.pxtog x y) s stored (fun u v => if u = x.toNat ∧ v = y.toNat then !pixel s u v else pixel s u v)

/-- PXTOG twice, and LINETOG twice with the end points in either order, restore the framebuffer exactly
(43_framebuffer.md R202, R208). -/
def Obligations.TogglingTwiceRestores : Prop :=
  ∀ (x0 y0 x1 y1 : Byte) (s : State), s.fbWf →
    (∃ t u, exec (.pxtog x0 y0) s = .next t ∧ exec (.pxtog x0 y0) t = .next u ∧ u.fb = s.fb) ∧
    ∃ t u v, exec (.linetog x0 y0 x1 y1) s = .next t ∧
      exec (.linetog x0 y0 x1 y1) t = .next u ∧ u.fb = s.fb ∧
      exec (.linetog x1 y1 x0 y0) t = .next v ∧ v.fb = s.fb

/-- The line commands set, clear or invert exactly the points of the line that are in the field, each once
(43_framebuffer.md R206 to R208); what the points are is said by `LinePointsClosedForm` and `LinePointsAreALine`. -/
def Obligations.LineCommandsPlotTheirPoints : Prop :=
  Encodes 0x44 (fun w =>
    .lineset (w.extractLsb' 24 8) (w.extractLsb' 16 8) (w.extractLsb' 8 8) (w.extractLsb' 0 8)) ∧
  Encodes 0x45 (fun w =>
    .lineclr (w.extractLsb' 24 8) (w.extractLsb' 16 8) (w.extractLsb' 8 8) (w.extractLsb' 0 8)) ∧
  Encodes 0x46 (fun w =>
    .linetog (w.extractLsb' 24 8) (w.extractLsb' 16 8) (w.extractLsb' 8 8) (w.extractLsb' 0 8)) ∧
  ∀ (x0 y0 x1 y1 : Byte) (s : State), s.fbWf →
    let pts := linePoints x0.toNat y0.toNat x1.toNat y1.toNat
    let stored := fun a => ∃ pt ∈ pts, 0 ≤ pt.1 ∧ pt.1 < 128 ∧ 0 ≤ pt.2 ∧ pt.2 < 64 ∧
      a = pixAddr pt.1.toNat pt.2.toNat
    DrawsExactly (.lineset x0 y0 x1 y1) s stored
      (fun u v => if ((u : Int), (v : Int)) ∈ pts then true else pixel s u v) ∧
    DrawsExactly (.lineclr x0 y0 x1 y1) s stored
      (fun u v => if ((u : Int), (v : Int)) ∈ pts then false else pixel s u v) ∧
    DrawsExactly (.linetog x0 y0 x1 y1) s stored
      (fun u v => if ((u : Int), (v : Int)) ∈ pts then !pixel s u v else pixel s u v)

/-- The error loop of 43_framebuffer.md R205 in closed form: along the major axis, point k is k columns on and
(k |dy| + dx - 1 - dx div 2) div dx rows up or down; a steep line is the line with its axes swapped. -/
def Obligations.LinePointsClosedForm : Prop :=
  (∀ x0 y0 x1 y1 : Int, x0 ≤ x1 → |y1 - y0| ≤ x1 - x0 →
    linePoints x0 y0 x1 y1 =
      (List.range (x1 - x0 + 1).toNat).map fun k =>
        (x0 + k, y0 + (if y0 < y1 then 1 else -1) *
          ((k * |y1 - y0| + (x1 - x0) - 1 - (x1 - x0) / 2) / (x1 - x0)))) ∧
  (∀ x0 y0 x1 y1 : Int, |x1 - x0| < |y1 - y0| →
    linePoints x0 y0 x1 y1 = (linePoints y0 x0 y1 x1).map Prod.swap) ∧
  ∀ x0 y0 x1 y1 : Int, linePoints x0 y0 x1 y1 = linePoints x1 y1 x0 y0

/-- A line has max (|dx|, |dy|) + 1 distinct points, both end points among them, and none outside their rectangle
(43_framebuffer.md R205). -/
def Obligations.LinePointsAreALine : Prop :=
  ∀ x0 y0 x1 y1 : Int,
    ((linePoints x0 y0 x1 y1).length : Int) = max |x1 - x0| |y1 - y0| + 1 ∧ (linePoints x0 y0 x1 y1).Nodup ∧
    (x0, y0) ∈ linePoints x0 y0 x1 y1 ∧ (x1, y1) ∈ linePoints x0 y0 x1 y1 ∧
    ∀ pt ∈ linePoints x0 y0 x1 y1,
      min x0 x1 ≤ pt.1 ∧ pt.1 ≤ max x0 x1 ∧ min y0 y1 ≤ pt.2 ∧ pt.2 ≤ max y0 y1

/-- BLOCK: bit k of the byte becomes pixel (x, y + k), the part below the field is dropped, and every other pixel and
every byte but the one or two stored keep their value (43_framebuffer.md R210). -/
def Obligations.BlockWritesEightPixels : Prop :=
  Encodes 0x48 (fun w => .block (w.extractLsb' 24 8) (w.extractLsb' 16 8) (w.extractLsb' 8 8)) ∧
  ∀ (x y v : Byte) (s : State), s.fbWf →
    DrawsExactly (.block x y v) s (blockStores x.toNat y.toNat) fun i j =>
      if i = x.toNat ∧ y.toNat ≤ j ∧ j < y.toNat + 8 then v.getLsbD (j - y.toNat) else pixel s i j

/-- GLYPH: five columns of the font from column x on, columns beyond 127 dropped, and every other pixel and byte as
before (43_framebuffer.md R214). -/
def Obligations.GlyphWritesFiveColumns : Prop :=
  Encodes 0x49 (fun w => .glyph (w.extractLsb' 24 8) (w.extractLsb' 16 8) (w.extractLsb' 8 8)) ∧
  ∀ (x y ch : Byte) (s : State), s.fbWf →
    DrawsExactly (.glyph x y ch) s (fun a => ∃ i, i < 5 ∧ blockStores (x.toNat + i) y.toNat a) fun i j =>
      if h : x.toNat ≤ i ∧ i < x.toNat + 5 then
        if y.toNat < 64 ∧ y.toNat ≤ j ∧ j < y.toNat + 8 then
          (Config.font ch ⟨i - x.toNat, by omega⟩).getLsbD (j - y.toNat)
        else pixel s i j
      else pixel s i j

/-- FBCLR clears every byte; RDFB responds the byte at an index below 1024, else 0, and writes nothing
(43_framebuffer.md R216, R217). -/
def Obligations.FbclrAndRdfb : Prop :=
  Encodes 0x4A (fun _ => .fbclr) ∧ Encodes 0x4B (fun w => .rdfb (w.extractLsb' 0 16)) ∧
  (∀ s : State, ∃ t, exec .fbclr s = .next t ∧ t = { s with fb := t.fb, resps := s.resps ++ [0x0000] } ∧ t.fbWf ∧
    ∀ a, fbRead t a = 0x00) ∧
  ∀ (imm : Word) (s : State), exec (.rdfb imm) s = .next { s with
    resps := s.resps ++ [if imm.toNat < 1024 then (fbRead s imm.toNat).zeroExtend 16 else 0x0000] }

/-! ### Display transport -/

/-- TXCMD and TXDAT send one byte with dc 0 and 1: it is logged, and the display controller has consumed it
(44_display_transport.md R230, R231). -/
def Obligations.TxBytesAreLoggedAndConsumed : Prop :=
  Encodes 0x53 (fun w => .txcmd (w.extractLsb' 24 8)) ∧ Encodes 0x54 (fun w => .txdat (w.extractLsb' 24 8)) ∧
  ∀ (v : Byte) (s : State),
    exec (.txcmd v) s = .next { s with
      txlog := s.txlog ++ [⟨.command, v⟩]
      sink := sinkByte s.cfg.opc s.sink ⟨.command, v⟩
      resps := s.resps ++ [0x0000] } ∧
    exec (.txdat v) s = .next { s with
      txlog := s.txlog ++ [⟨.data, v⟩]
      sink := sinkByte s.cfg.opc s.sink ⟨.data, v⟩
      resps := s.resps ++ [0x0000] }

/-- RFALL sends the full window and the 1024 bytes of FB in order (44_display_transport.md R233). -/
def Obligations.RfallSendsWholeFramebuffer : Prop :=
  Encodes 0x50 (fun _ => .rfall) ∧
  ∀ s : State,
    let bytes : List TxByte :=
      [⟨.command, s.cfg.opc.colAddr⟩, ⟨.command, 0⟩, ⟨.command, 127⟩,
       ⟨.command, s.cfg.opc.pageAddr⟩, ⟨.command, 0⟩, ⟨.command, 7⟩] ++
      (List.range 1024).map fun i => ⟨.data, fbRead s i⟩
    bytes.length = 1030 ∧
    exec .rfall s = .next { s with
      txlog := s.txlog ++ bytes, sink := sinkBytes s.cfg.opc s.sink bytes, resps := s.resps ++ [0x0000] }

/-- RFPX sends a one-byte window and the byte that holds the pixel, its page taken modulo 8; nothing for x ≥ 128
(44_display_transport.md R234). -/
def Obligations.RfpxSendsOneByte : Prop :=
  Encodes 0x51 (fun w => .rfpx (w.extractLsb' 24 8) (w.extractLsb' 16 8)) ∧
  ∀ (x y : Byte) (s : State),
    let p := y.toNat / 8 % 8
    let bytes : List TxByte :=
      [⟨.command, s.cfg.opc.colAddr⟩, ⟨.command, x⟩, ⟨.command, x⟩,
       ⟨.command, s.cfg.opc.pageAddr⟩, ⟨.command, BitVec.ofNat 8 p⟩, ⟨.command, BitVec.ofNat 8 p⟩,
       ⟨.data, fbRead s (x.toNat + p * 128)⟩]
    (x.toNat < 128 → exec (.rfpx x y) s = .next { s with
      txlog := s.txlog ++ bytes, sink := sinkBytes s.cfg.opc s.sink bytes, resps := s.resps ++ [0x0000] }) ∧
    (128 ≤ x.toNat → exec (.rfpx x y) s = .next { s with resps := s.resps ++ [0x0000] })

/-- RFREG sends the window of the bounding rectangle in whole pages, then its bytes page by page, none when the modulo
inverts the pages; nothing at all for a column outside the display (44_display_transport.md R235). -/
def Obligations.RfregSendsRectangle : Prop :=
  Encodes 0x52 (fun w =>
    .rfreg (w.extractLsb' 24 8) (w.extractLsb' 16 8) (w.extractLsb' 8 8) (w.extractLsb' 0 8)) ∧
  ∀ (x0 y0 x1 y1 : Byte) (s : State),
    let c0 := min x0.toNat x1.toNat
    let c1 := max x0.toNat x1.toNat
    let p0 := min y0.toNat y1.toNat / 8 % 8
    let p1 := max y0.toNat y1.toNat / 8 % 8
    let width := c1 - c0 + 1
    let n := if p0 ≤ p1 then width * (p1 - p0 + 1) else 0
    let bytes : List TxByte :=
      [⟨.command, s.cfg.opc.colAddr⟩, ⟨.command, BitVec.ofNat 8 c0⟩, ⟨.command, BitVec.ofNat 8 c1⟩,
       ⟨.command, s.cfg.opc.pageAddr⟩, ⟨.command, BitVec.ofNat 8 p0⟩, ⟨.command, BitVec.ofNat 8 p1⟩] ++
      (List.range n).map fun k => ⟨.data, fbRead s (c0 + k % width + (p0 + k / width) * 128)⟩
    (x0.toNat < 128 ∧ x1.toNat < 128 → exec (.rfreg x0 y0 x1 y1) s = .next { s with
      txlog := s.txlog ++ bytes, sink := sinkBytes s.cfg.opc s.sink bytes, resps := s.resps ++ [0x0000] }) ∧
    (128 ≤ x0.toNat ∨ 128 ≤ x1.toNat → exec (.rfreg x0 y0 x1 y1) s = .next { s with resps := s.resps ++ [0x0000] })

/-- DINIT sends the bytes of DINIT_SEQ as command bytes, in order; with the default bytes, from a display between two
commands, the display is then on and in horizontal addressing mode, its window, pointers and RAM are as before, and a
second DINIT changes nothing in it (44_display_transport.md R236). -/
def Obligations.DinitSelectsHorizontalMode : Prop :=
  Encodes 0x55 (fun _ => .dinit) ∧
  Config.default.dinitSeq = [0xAE, 0x81, 0x7F, 0xA1, 0xC8, 0xA8, 0x3F, 0x20, 0x00, 0x8D, 0x14, 0xAF] ∧
  (∀ s : State,
    let bytes : List TxByte := s.cfg.dinitSeq.map fun v => ⟨.command, v⟩
    exec .dinit s = .next { s with
      txlog := s.txlog ++ bytes, sink := sinkBytes s.cfg.opc s.sink bytes, resps := s.resps ++ [0x0000] }) ∧
  ∀ (s : State) (d : Display), s.sink.ctrl = .tracked d → d.parse = .idle → s.cfg.opc = Opcodes.standard →
    s.cfg.dinitSeq = standardInitSequence →
    ∃ t u, exec .dinit s = .next t ∧
      t.sink = ⟨.tracked { d with
        on := 1, contrast := 0x7F, segRemap := 1, comScan := 1, mux := 0x3F, addrMode := 0, pump := 1 },
        s.sink.freeCount⟩ ∧
      exec .dinit t = .next u ∧ u.sink = t.sink

/-- After RFALL on a display in horizontal mode and between two commands, GDDRAM equals FB, whatever window was set
before, and the pointers are at the start of the full window (44_display_transport.md R253). -/
def Obligations.RefreshAllShowsFramebuffer : Prop :=
  ∀ (s : State) (d : Display), s.displayReady d →
    ∃ t e, exec .rfall s = .next t ∧ t.sink = ⟨.tracked e, s.sink.freeCount⟩ ∧
      (∀ i, i < 1024 → e.shows i = some (fbRead t i)) ∧ (∀ i, 1024 ≤ i → e.shows i = d.shows i) ∧
      e.col = 0 ∧ e.page = 0 ∧ e.parse = .idle ∧ e.addrMode = 0

/-- After RFPX the one byte that holds the pixel is shown as in FB and every other byte of GDDRAM is unchanged
(44_display_transport.md R253). -/
def Obligations.RefreshPixelShowsByte : Prop :=
  ∀ (s : State) (d : Display) (x y : Byte), s.displayReady d → x.toNat < 128 →
    let a := x.toNat + y.toNat / 8 % 8 * 128
    ∃ t e, exec (.rfpx x y) s = .next t ∧ t.sink = ⟨.tracked e, s.sink.freeCount⟩ ∧
      e.shows a = some (fbRead t a) ∧ (∀ b, b ≠ a → e.shows b = d.shows b) ∧
      e.col.toNat = x.toNat ∧ e.page.toNat = y.toNat / 8 % 8 ∧ e.parse = .idle ∧ e.addrMode = 0

/-- After RFREG whose pages the modulo does not invert, every byte of the rectangle is shown as in FB, every other byte
of GDDRAM is unchanged, and the pointers are at the start of the window (44_display_transport.md R253). -/
def Obligations.RefreshRegionShowsRectangle : Prop :=
  ∀ (s : State) (d : Display) (x0 y0 x1 y1 : Byte), s.displayReady d → x0.toNat < 128 → x1.toNat < 128 →
    let c0 := min x0.toNat x1.toNat
    let c1 := max x0.toNat x1.toNat
    let p0 := min y0.toNat y1.toNat / 8 % 8
    let p1 := max y0.toNat y1.toNat / 8 % 8
    p0 ≤ p1 →
    ∃ t e, exec (.rfreg x0 y0 x1 y1) s = .next t ∧ t.sink = ⟨.tracked e, s.sink.freeCount⟩ ∧
      (∀ c p, c0 ≤ c → c ≤ c1 → p0 ≤ p → p ≤ p1 → e.shows (c + p * 128) = some (fbRead t (c + p * 128))) ∧
      (∀ a, (∀ c p, c0 ≤ c → c ≤ c1 → p0 ≤ p → p ≤ p1 → a ≠ c + p * 128) → e.shows a = d.shows a) ∧
      e.col.toNat = c0 ∧ e.page.toNat = p0 ∧ e.parse = .idle ∧ e.addrMode = 0

/-! ### Display controller and serial channel -/

/-- What each command byte of 30_encoding.md R113 does in each state of the parser (44_display_transport.md R250), for
a window whose start is not beyond its end. -/
def Obligations.CommandByteDrivesController : Prop :=
  ∀ (d : Display) (n : Nat) (b : Byte),
    let out := sinkByte Opcodes.standard ⟨.tracked d, n⟩ ⟨.command, b⟩
    (d.parse = .idle →
      (b = 0x21 → out = ⟨.tracked { d with parse := .awaitTwo .colAddr }, n⟩) ∧
      (b = 0x22 → out = ⟨.tracked { d with parse := .awaitTwo .pageAddr }, n⟩) ∧
      (b = 0x20 → out = ⟨.tracked { d with parse := .awaitOne .addrMode }, n⟩) ∧
      (b = 0x81 → out = ⟨.tracked { d with parse := .awaitOne .contrast }, n⟩) ∧
      (b = 0xA8 → out = ⟨.tracked { d with parse := .awaitOne .muxRatio }, n⟩) ∧
      (b = 0x8D → out = ⟨.tracked { d with parse := .awaitOne .chargePump }, n⟩) ∧
      (b = 0xAE → out = ⟨.tracked { d with on := 0 }, n⟩) ∧
      (b = 0xAF → out = ⟨.tracked { d with on := 1 }, n⟩) ∧
      (b = 0xA0 → out = ⟨.tracked { d with segRemap := 0 }, n⟩) ∧
      (b = 0xA1 → out = ⟨.tracked { d with segRemap := 1 }, n⟩) ∧
      (b = 0xC0 → out = ⟨.tracked { d with comScan := 0 }, n⟩) ∧
      (b = 0xC8 → out = ⟨.tracked { d with comScan := 1 }, n⟩)) ∧
    (d.parse = .awaitOne .addrMode →
      out = ⟨.tracked { d with addrMode := b.extractLsb' 0 2, parse := .idle }, n⟩) ∧
    (d.parse = .awaitOne .contrast → out = ⟨.tracked { d with contrast := b, parse := .idle }, n⟩) ∧
    (d.parse = .awaitOne .muxRatio → out = ⟨.tracked { d with mux := b.extractLsb' 0 6, parse := .idle }, n⟩) ∧
    (d.parse = .awaitOne .chargePump → out = ⟨.tracked { d with pump := b.extractLsb' 2 1, parse := .idle }, n⟩) ∧
    (∀ c, d.parse = .awaitTwo c → out = ⟨.tracked { d with parse := .awaitSecond c b }, n⟩) ∧
    (∀ s : Byte, d.parse = .awaitSecond .colAddr s → s.extractLsb' 0 7 ≤ b.extractLsb' 0 7 →
      out = ⟨.tracked { d with
        colStart := s.extractLsb' 0 7, colEnd := b.extractLsb' 0 7, col := s.extractLsb' 0 7, parse := .idle }, n⟩) ∧
    ∀ s : Byte, d.parse = .awaitSecond .pageAddr s → s.extractLsb' 0 3 ≤ b.extractLsb' 0 3 →
      out = ⟨.tracked { d with
        pageStart := s.extractLsb' 0 3, pageEnd := b.extractLsb' 0 3, page := s.extractLsb' 0 3, parse := .idle }, n⟩

/-- A data byte in horizontal mode, between two commands and with a window whose start is not beyond its end, is
written under the pointers, which then walk left to right and page by page and wrap at the window's end
(44_display_transport.md R251). -/
def Obligations.DataByteWritesAndWalks : Prop :=
  ∀ (opc : Opcodes) (d : Display) (n : Nat) (b : Byte),
    d.parse = .idle → d.addrMode = 0 → d.colStart ≤ d.colEnd → d.pageStart ≤ d.pageEnd →
    ∃ e, sinkByte opc ⟨.tracked d, n⟩ ⟨.data, b⟩ = ⟨.tracked e, n⟩ ∧
      e = { d with
        gddram := e.gddram
        col := if d.col ≠ d.colEnd then d.col + 1 else d.colStart
        page :=
          if d.col ≠ d.colEnd then d.page else if d.page ≠ d.pageEnd then d.page + 1 else d.pageStart } ∧
      ∀ a, e.shows a = if a = d.col.toNat + d.page.toNat * 128 then some b else d.shows a

/-- What the model leaves open where the spec gives the controller no behaviour (93 U7, U8, U9): after a data byte outside
horizontal mode or through an inverted window nothing is known of GDDRAM and the pointers; after a window command with
start beyond end nothing is known of that pointer; after an unlisted command byte or a data byte inside a command
nothing is known of the display any more. This is the model's choice (log 11, 12, 13); it holds for every value of the
free constants. -/
def Obligations.UnspecifiedDisplayEventsStayOpen : Prop :=
  ∀ (opc : Opcodes) (d : Display) (n : Nat) (b : Byte),
    (d.parse = .idle → ¬(d.addrMode = 0 ∧ d.colStart ≤ d.colEnd ∧ d.pageStart ≤ d.pageEnd) →
      ∃ e, sinkByte opc ⟨.tracked d, n⟩ ⟨.data, b⟩ = ⟨.tracked e, n + 1⟩ ∧
        e = { d with gddram := e.gddram, col := e.col, page := e.page } ∧ ∀ a, e.shows a = none) ∧
    (∀ v : Byte, d.parse = .awaitSecond .colAddr v → b.extractLsb' 0 7 < v.extractLsb' 0 7 →
      ∃ e, sinkByte opc ⟨.tracked d, n⟩ ⟨.command, b⟩ = ⟨.tracked e, n + 1⟩ ∧
        e = { d with colStart := v.extractLsb' 0 7, colEnd := b.extractLsb' 0 7, col := e.col, parse := .idle }) ∧
    (∀ v : Byte, d.parse = .awaitSecond .pageAddr v → b.extractLsb' 0 3 < v.extractLsb' 0 3 →
      ∃ e, sinkByte opc ⟨.tracked d, n⟩ ⟨.command, b⟩ = ⟨.tracked e, n + 1⟩ ∧
        e = { d with pageStart := v.extractLsb' 0 3, pageEnd := b.extractLsb' 0 3, page := e.page, parse := .idle }) ∧
    (d.parse ≠ .idle → sinkByte opc ⟨.tracked d, n⟩ ⟨.data, b⟩ = ⟨.lost, n⟩) ∧
    (d.parse = .idle → b ∉ [opc.displayOff, opc.displayOn, opc.contrast, opc.segRemap0, opc.segRemap1, opc.comScanInc,
        opc.comScanDec, opc.muxRatio, opc.addrMode, opc.chargePump, opc.colAddr, opc.pageAddr] →
      sinkByte opc ⟨.tracked d, n⟩ ⟨.command, b⟩ = ⟨.lost, n⟩) ∧
    ∀ t : TxByte, sinkByte opc ⟨.lost, n⟩ t = ⟨.lost, n⟩

/-- What the display samples at the rising clock edges is, byte by byte, the mode bit and the bits from 7 down to 0, and
each byte has its own chip-select frame with a stable mode signal (30_encoding.md R110, R111). A command shows the wave of
its bytes with `cmd_ready` low and nothing accepted, and then one response pulse, chip select high (00_scope.md R9,
30_encoding.md R93, 20_memory.md R74). -/
def Obligations.SerialWaveSamplesBack : Prop :=
  (∀ ts : List TxByte, samples (serialWave ts) =
    ts.flatMap fun t => (List.range 8).map fun i => (some (decide (t.dc = .data)), some (t.byte.getLsbD (7 - i)))) ∧
  (∀ t : TxByte, ∃ (first last : Pins) (inside : List Pins), byteWave t = first :: (inside ++ [last]) ∧
    first.csN = true ∧ last.csN = true ∧ first.sclk = false ∧ last.sclk = false ∧
    (∀ p ∈ inside, p.csN = false) ∧ ∀ p ∈ byteWave t, p.dc = some (decide (t.dc = .data))) ∧
  ∀ (s : State) (w : Command) (rest : List Action), s.actions = .command w :: rest →
    ∃ t bytes r, step s = .next t ∧ t.txlog = s.txlog ++ bytes ∧ t.resps = s.resps ++ [r] ∧
      s.phases = .idle :: (executingBytes bytes ++ [.responding r]) ∧
      (∀ p ∈ executingBytes bytes, p.ports.cmdReady = some false ∧ p.ports.respValid = false ∧ p.accepts = false) ∧
      (Phase.responding r).ports.respValid = true ∧ (Phase.responding r).ports.resp = some r ∧
      (Phase.responding r).ports.spi.csN = true

/-! ### System and test access -/

/-- NOP does nothing, TICKON and TICKOFF write CTRL.TICK_EN; all respond 0 (45_system_debug.md R270 to R272). -/
def Obligations.NopTickonTickoff : Prop :=
  Encodes 0x00 (fun _ => .nop) ∧ Encodes 0x01 (fun _ => .tickon) ∧ Encodes 0x02 (fun _ => .tickoff) ∧
  ∀ s : State,
    exec .nop s = .next { s with resps := s.resps ++ [0x0000] } ∧
    exec .tickon s = .next { s with tickEn := true, resps := s.resps ++ [0x0000] } ∧
    exec .tickoff s = .next { s with tickEn := false, resps := s.resps ++ [0x0000] }

/-- RDB and WRB: the ball registers by index; indices 5 to 255 read 0 and write nothing (45_system_debug.md R273, R274).
RDB is stated for a value that the 16-bit response can show, which is every value while W = 16. -/
def Obligations.RdbAndWrbReachBallRegisters : Prop :=
  Encodes 0x18 (fun w => .rdb (w.extractLsb' 24 8)) ∧
  Encodes 0x19 (fun w => .wrb (w.extractLsb' 24 8) (w.extractLsb' 0 16)) ∧
  ∀ (r : Byte) (imm : Word) (s : State),
    let v := wrapW s.cfg.width imm.toInt
    let value : Int :=
      if r = 0 then s.ball.px else if r = 1 then s.ball.py else if r = 2 then s.ball.vx
      else if r = 3 then s.ball.vy else if r = 4 then s.ball.spin else 0
    (inWidth 16 value →
      ∃ a : Word, a.toInt = value ∧ exec (.rdb r) s = .next { s with resps := s.resps ++ [a] }) ∧
    exec (.wrb r imm) s = .next { s with
      ball := {
        px := if r = 0 then v else s.ball.px
        py := if r = 1 then v else s.ball.py
        vx := if r = 2 then v else s.ball.vx
        vy := if r = 3 then v else s.ball.vy
        spin := if r = 4 then v else s.ball.spin }
      resps := s.resps ++ [0x0000] }

/-- RDP and WRP: a paddle's fields by index; the lane constant and the indices 3 to 255 cannot be written, and the
reserved indices read 0 (45_system_debug.md R275, R276). RDP is stated for a value that the 16-bit response can show,
which is every value while W = 16. -/
def Obligations.RdpAndWrpReachPaddleFields : Prop :=
  Encodes 0x28 (fun w => .rdp (selectBit w) (w.extractLsb' 16 8)) ∧
  Encodes 0x29 (fun w => .wrp (selectBit w) (w.extractLsb' 16 8) (w.extractLsb' 0 16)) ∧
  ∀ (p : Side) (f : Byte) (imm : Word) (s : State),
    let v := wrapW s.cfg.width imm.toInt
    let after := fun q : Paddle => (⟨if f = 0 then v else q.pos, if f = 1 then v else q.vel⟩ : Paddle)
    let value : Int :=
      if f = 0 then (s.pad p).pos else if f = 1 then (s.pad p).vel
      else if f = 2 then (laneOf s.cfg p).toNat else 0
    (inWidth 16 value →
      ∃ a : Word, a.toInt = value ∧ exec (.rdp p f) s = .next { s with resps := s.resps ++ [a] }) ∧
    exec (.wrp p f imm) s = .next { s with
      pad0 := if p = .left then after s.pad0 else s.pad0
      pad1 := if p = .right then after s.pad1 else s.pad1
      resps := s.resps ++ [0x0000] }

/-- TICKOFF; RDB 0; RDB 1; TICKON reads both coordinates of one instant, however many tick requests fall between the
commands (they are dropped) and whatever actions follow (20_memory.md R72, 70_reset_and_hazards.md R330); of a
coordinate of more than 16 bits the response is the low 16 (log 29). -/
def Obligations.SnapshotIsOneInstant : Prop :=
  ∀ (s : State) (a b c : Nat) (rest : List Action),
    s.actions =
      Action.command 0x0200000000 :: (List.replicate a Action.tickRequest ++
        Action.command 0x1800000000 :: (List.replicate b Action.tickRequest ++
          Action.command 0x1801000000 :: (List.replicate c Action.tickRequest ++
            Action.command 0x0100000000 :: rest))) →
    Sys2Proof.core.run (a + b + c + 4) s = .next { s with
      tickEn := true
      actions := rest
      ci := s.ci + 4
      resps := s.resps ++ [0x0000, BitVec.ofInt 16 s.ball.px, BitVec.ofInt 16 s.ball.py, 0x0000] }

/-! ### The register width -/

/-- The primitives of 00_scope.md R11 for every register width: `wrapW` is the one integer of the range of W bits that is
congruent modulo 2^W, `tdiv` truncates toward zero, `asr` is the floor. -/
def Obligations.ArithmeticPrimitives : Prop :=
  (∀ (w : Nat) (v : Int), 0 < w → inWidth w (wrapW w v) ∧ wrapW w v % 2 ^ w = v % 2 ^ w ∧
    ∀ r : Int, inWidth w r → r % 2 ^ w = v % 2 ^ w → r = wrapW w v) ∧
  (∀ a b : Int, 0 < b → (0 ≤ a → b * tdiv a b ≤ a ∧ a < b * tdiv a b + b) ∧ tdiv (-a) b = -tdiv a b) ∧
  ∀ (v : Int) (n : Nat), 2 ^ n * asr v n ≤ v ∧ v < 2 ^ n * asr v n + 2 ^ n

/-- A register of more than 16 bits answers RDB, RDP and GETY with the 16-bit word congruent to its value modulo 65536,
the model's reading for W above 16 (log 29); so an immediate that WRB or WRP stored reads back, whatever W of at least
16. -/
def Obligations.WideRegistersRespondLowBits : Prop :=
  (∀ (r f : Byte) (p : Side) (s : State), ∃ a b c : Word,
    exec (.rdb r) s = .next { s with resps := s.resps ++ [a] } ∧
    exec (.rdp p f) s = .next { s with resps := s.resps ++ [b] } ∧
    exec (.gety p) s = .next { s with resps := s.resps ++ [c] } ∧
    (r = 0 → s.ball.px % 65536 = a.toNat) ∧ (r = 1 → s.ball.py % 65536 = a.toNat) ∧
    (r = 2 → s.ball.vx % 65536 = a.toNat) ∧ (r = 3 → s.ball.vy % 65536 = a.toNat) ∧
    (r = 4 → s.ball.spin % 65536 = a.toNat) ∧ (5 ≤ r.toNat → a = 0) ∧
    (f = 0 → (s.pad p).pos % 65536 = b.toNat) ∧ (f = 1 → (s.pad p).vel % 65536 = b.toNat) ∧
    (f = 2 → b.toNat = (laneOf s.cfg p).toNat) ∧ (3 ≤ f.toNat → b = 0) ∧
    (s.pad p).pos / 16 % 65536 = c.toNat) ∧
  ∀ (r f : Byte) (p : Side) (imm : Word) (s : State), s.widthOk → r.toNat < 5 → f.toNat < 2 → ∃ t u,
    exec (.wrb r imm) s = .next t ∧ exec (.rdb r) t = .next { t with resps := t.resps ++ [imm] } ∧
    exec (.wrp p f imm) s = .next u ∧ exec (.rdp p f) u = .next { u with resps := u.resps ++ [imm] }
end

