-- ==== Sys2Proof/Laws/Arith.lean ====
section
/-! SUPPORT. The arithmetic primitives of 00_scope.md R11 in the forms omega can use. -/

namespace Sys2Proof.Machine

/-- `wrapW` lands in the range of a register of `w` bits (R11). -/
theorem wrapW_inWidth (w : Nat) (v : Int) : -(2 ^ (w - 1)) ≤ wrapW w v ∧ wrapW w v < 2 ^ (w - 1) := by
  unfold wrapW
  cases w with
  | zero => simp [Int.bmod_one]
  | succ n =>
    have h1 := Int.le_bmod (x := v) (m := 2 ^ (n + 1)) (by positivity)
    have h2 := Int.bmod_lt (x := v) (m := 2 ^ (n + 1)) (by positivity)
    have h3 : ((2 ^ (n + 1) : Nat) : Int) = 2 * 2 ^ n := by push_cast; ring
    rw [h3] at h1 h2
    simp only [Nat.add_sub_cancel]
    omega

/-- `wrapW` keeps the residue modulo `2^w` (R11). -/
theorem wrapW_emod (w : Nat) (v : Int) : wrapW w v % 2 ^ w = v % 2 ^ w := by
  have h : ((2 ^ w : Nat) : Int) = 2 ^ w := by push_cast; rfl
  rw [← h]
  exact Int.bmod_emod

/-- `wrapW` changes nothing in range (R11). -/
theorem wrapW_of_inWidth {w : Nat} {v : Int} (hw : 0 < w) (h1 : -(2 ^ (w - 1)) ≤ v) (h2 : v < 2 ^ (w - 1)) :
    wrapW w v = v := by
  obtain ⟨n, rfl⟩ : ∃ n, w = n + 1 := ⟨w - 1, by omega⟩
  have h3 : ((2 ^ (n + 1) : Nat) : Int) = 2 * 2 ^ n := by push_cast; ring
  simp only [Nat.add_sub_cancel] at h1 h2
  exact Int.bmod_eq_of_le (by rw [h3]; omega) (by rw [h3]; omega)

/-- A wrapped operand of a wrapped sum need not have been wrapped (R11, R128). -/
@[simp] theorem wrapW_add_wrapW (w : Nat) (a b : Int) : wrapW w (a + wrapW w b) = wrapW w (a + b) := by
  simp [wrapW]
@[simp] theorem wrapW_wrapW_add (w : Nat) (a b : Int) : wrapW w (wrapW w a + b) = wrapW w (a + b) := by
  simp [wrapW]
@[simp] theorem wrapW_sub_wrapW (w : Nat) (a b : Int) : wrapW w (a - wrapW w b) = wrapW w (a - b) := by
  simp [wrapW]
@[simp] theorem wrapW_wrapW (w : Nat) (v : Int) : wrapW w (wrapW w v) = wrapW w v := by simp [wrapW]
@[simp] theorem wrapW_zero (w : Nat) : wrapW w 0 = 0 := by simp [wrapW]

/-- `wrapW` is what a word of `w` bits holds, read as a signed number (R11). -/
theorem toInt_ofInt_eq_wrapW (w : Nat) (v : Int) : (BitVec.ofInt w v).toInt = wrapW w v := by
  simp [wrapW, BitVec.toInt_ofInt]

/-- A width of at least 16 bits has room for every 16-bit value (D1). -/
theorem two_pow_of_width {w : Nat} (h : 16 ≤ w) : (32768 : Int) ≤ 2 ^ (w - 1) := by
  have : (2 : Int) ^ 15 ≤ 2 ^ (w - 1) := pow_le_pow_right₀ (by norm_num) (by omega)
  simpa using this

/-- With at least 16 bits a 16-bit value is not wrapped (D1). -/
theorem wrapW_of_range {w : Nat} (hw : 16 ≤ w) {v : Int} (h1 : -32768 ≤ v) (h2 : v < 32768) : wrapW w v = v := by
  have := two_pow_of_width hw
  exact wrapW_of_inWidth (by omega) (by omega) (by omega)

theorem tdiv_of_nonneg {a : Int} (h : 0 ≤ a) (n : Int) : tdiv a n = a / n := Int.tdiv_eq_ediv_of_nonneg h

theorem tdiv_of_neg {a : Int} (h : a < 0) (n : Int) : tdiv a n = -(-a / n) := by
  have h2 : (-(-a)).tdiv n = -((-a).tdiv n) := Int.neg_tdiv (-a) n
  rw [Int.neg_neg] at h2
  rw [tdiv, h2, Int.tdiv_eq_ediv_of_nonneg (by omega)]

/-- Truncating division never enlarges a magnitude and keeps the sign (R11, R131). -/
theorem tdiv_bounds (a : Int) {n : Int} (hn : 0 < n) :
    (0 ≤ a → 0 ≤ tdiv a n ∧ n * tdiv a n ≤ a ∧ a < n * tdiv a n + n) ∧
      (a ≤ 0 → tdiv a n ≤ 0 ∧ a ≤ n * tdiv a n ∧ n * tdiv a n - n < a) := by
  constructor
  · intro h
    rw [tdiv_of_nonneg h]
    have h1 := Int.mul_ediv_add_emod a n
    have h2 := Int.emod_nonneg a (by omega : n ≠ 0)
    have h3 := Int.emod_lt_of_pos a hn
    exact ⟨Int.ediv_nonneg h (by omega), by omega, by omega⟩
  · intro h
    rcases Int.lt_or_eq_of_le h with h | h
    · rw [tdiv_of_neg h]
      have h1 := Int.mul_ediv_add_emod (-a) n
      have h2 := Int.emod_nonneg (-a) (by omega : n ≠ 0)
      have h3 := Int.emod_lt_of_pos (-a) hn
      have h4 : 0 ≤ -a / n := Int.ediv_nonneg (by omega) (by omega)
      have h5 : n * -(-a / n) = -(n * (-a / n)) := by ring
      rw [h5]
      exact ⟨by omega, by omega, by omega⟩
    · subst h
      simp [tdiv, hn]

/-- The paddle shift is the floor of a sixteenth (R11, R25). -/
theorem asr_four (v : Int) : asr v paddleShift = v / 16 := by
  simp [asr, paddleShift, Int.fdiv_eq_ediv_of_nonneg]

end Sys2Proof.Machine
end

