-- ==== Sys2Proof/Laws/Decode.lean ====
section
/-! SUPPORT. The fields of a packed command word (30_encoding.md R90, R91). -/

namespace Sys2Proof

theorem pack_getLsbD (op a b c d : Byte) (i : Nat) :
    (pack op a b c d).getLsbD i =
      if i < 8 then d.getLsbD i else if i < 16 then c.getLsbD (i - 8) else if i < 24 then b.getLsbD (i - 16)
      else if i < 32 then a.getLsbD (i - 24) else op.getLsbD (i - 32) := by
  simp only [pack, BitVec.getLsbD_append]
  split_ifs <;> first | rfl | (congr 1 <;> omega)

@[simp] theorem opField_pack (op a b c d : Byte) : opField (pack op a b c d) = op := by
  refine BitVec.eq_of_getLsbD_eq fun i hi => ?_
  simp [opField, pack_getLsbD, hi, show ¬ 32 + i < 8 by omega, show ¬ 32 + i < 16 by omega,
    show ¬ 32 + i < 24 by omega]

@[simp] theorem aField_pack (op a b c d : Byte) : aField (pack op a b c d) = a := by
  refine BitVec.eq_of_getLsbD_eq fun i hi => ?_
  simp [aField, pack_getLsbD, hi, show ¬ 24 + i < 8 by omega, show ¬ 24 + i < 16 by omega,
    show 24 + i < 32 by omega]

@[simp] theorem bField_pack (op a b c d : Byte) : bField (pack op a b c d) = b := by
  refine BitVec.eq_of_getLsbD_eq fun i hi => ?_
  simp [bField, pack_getLsbD, hi, show ¬ 16 + i < 8 by omega, show 16 + i < 24 by omega]

@[simp] theorem cField_pack (op a b c d : Byte) : cField (pack op a b c d) = c := by
  refine BitVec.eq_of_getLsbD_eq fun i hi => ?_
  simp [cField, pack_getLsbD, hi, show 8 + i < 16 by omega]

@[simp] theorem dField_pack (op a b c d : Byte) : dField (pack op a b c d) = d := by
  refine BitVec.eq_of_getLsbD_eq fun i hi => ?_
  simp [dField, pack_getLsbD, hi]

@[simp] theorem immField_pack (op a b : Byte) (imm : Word) :
    immField (pack op a b (immHigh imm) (immLow imm)) = imm := by
  refine BitVec.eq_of_getLsbD_eq fun i hi => ?_
  simp only [immField, BitVec.getLsbD_extractLsb', pack_getLsbD, immHigh, immLow]
  rcases Nat.lt_or_ge i 8 with h | h
  · simp [h, hi]
  · simp [hi, show ¬ i < 8 by omega, show i - 8 < 8 by omega, show 8 + (i - 8) = i by omega]

@[simp] theorem sideOfByte_sideByte (p : Side) : sideOfByte (sideByte p) = p := by cases p <;> decide

@[simp] theorem sideField_pack (op b c d : Byte) (p : Side) : sideField (pack op (sideByte p) b c d) = p := by
  simp [sideField]

end Sys2Proof
end

