-- ==== Sys2Proof/Laws/Memory.lean ====
section
/-! SUPPORT. The laws of a byte memory: what a lookup gives after a write, that every operation keeps the canonical
form, and that two canonical memories that read alike are the same data. -/

namespace Sys2Proof.Machine

open List

/-! ### The canonical form, unfolded once -/

theorem Memory.wf_iff (bg : Option Byte) (size : Nat) (m : Memory) :
    Memory.wf bg size m = true ↔
      m.Pairwise (fun c e => c.1 < e.1) ∧ ∀ c ∈ m, c.1 < size ∧ bg ≠ some c.2 := by
  simp [Memory.wf]

theorem Memory.wf_nil (bg : Option Byte) (size : Nat) : Memory.wf bg size [] = true := by
  simp [Memory.wf_iff]

theorem Memory.wf_cons {bg : Option Byte} {size : Nat} {c : Host.Cell} {m : Memory} :
    Memory.wf bg size (c :: m) = true ↔
      (∀ e ∈ m, c.1 < e.1) ∧ c.1 < size ∧ bg ≠ some c.2 ∧ Memory.wf bg size m = true := by
  simp only [Memory.wf_iff, pairwise_cons, mem_cons, forall_eq_or_imp]
  tauto

/-! ### Lookup -/

@[simp] theorem Memory.lookup_nil (a : Nat) : Memory.lookup [] a = none := rfl

theorem Memory.lookup_cons (b : Nat) (v : Byte) (m : Memory) (a : Nat) :
    Memory.lookup ((b, v) :: m) a = if b = a then some v else Memory.lookup m a := rfl

theorem Memory.lookup_mem {m : Memory} {a : Nat} {v : Byte} (h : Memory.lookup m a = some v) : (a, v) ∈ m := by
  induction m with
  | nil => simp at h
  | cons c m ih =>
    obtain ⟨b, u⟩ := c
    rw [Memory.lookup_cons] at h
    split at h
    · next e => cases h; simp [e]
    · exact mem_cons_of_mem _ (ih h)

theorem Memory.lookup_eq_none_of_lt {m : Memory} {a : Nat} (h : ∀ c ∈ m, a < c.1) : Memory.lookup m a = none := by
  by_contra hn
  obtain ⟨v, hv⟩ := Option.ne_none_iff_exists'.1 hn
  exact absurd (h _ (Memory.lookup_mem hv)) (lt_irrefl _)

theorem Memory.lookup_of_size_le {bg : Option Byte} {size : Nat} {m : Memory} (hm : Memory.wf bg size m = true)
    {a : Nat} (h : size ≤ a) : Memory.lookup m a = none := by
  by_contra hn
  obtain ⟨v, hv⟩ := Option.ne_none_iff_exists'.1 hn
  have := ((Memory.wf_iff _ _ _).1 hm).2 _ (Memory.lookup_mem hv)
  omega

theorem Memory.lookup_insert (m : Memory) (a : Nat) (v : Byte) (b : Nat) :
    Memory.lookup (Memory.insert m a v) b = if a = b then some v else Memory.lookup m b := by
  induction m with
  | nil => simp [Memory.insert, Memory.lookup_cons]
  | cons c m ih =>
    obtain ⟨d, u⟩ := c
    simp only [Memory.insert]
    split
    · rw [Memory.lookup_cons]
    · split
      · next e => subst e; simp only [Memory.lookup_cons]; split <;> rfl
      · next hne =>
        simp only [Memory.lookup_cons, ih]
        split
        · next e => subst e; simp [Ne.symm hne]
        · rfl

theorem Memory.lookup_erase_ne {m : Memory} {a b : Nat} (h : a ≠ b) :
    Memory.lookup (Memory.erase m a) b = Memory.lookup m b := by
  induction m with
  | nil => rfl
  | cons c m ih =>
    obtain ⟨d, u⟩ := c
    simp only [Memory.erase]
    split
    · next e => subst e; simp [Memory.lookup_cons, h]
    · simp [Memory.lookup_cons, ih]

theorem Memory.lookup_erase_self {bg : Option Byte} {size : Nat} {m : Memory} (hm : Memory.wf bg size m = true)
    (a : Nat) : Memory.lookup (Memory.erase m a) a = none := by
  induction m with
  | nil => rfl
  | cons c m ih =>
    obtain ⟨d, u⟩ := c
    rw [Memory.wf_cons] at hm
    simp only [Memory.erase]
    split
    · next e => subst e; exact Memory.lookup_eq_none_of_lt hm.1
    · next e => simp [Memory.lookup_cons, e, ih hm.2.2.2]

/-- A write leaves every other address alone, in any memory. -/
theorem Memory.lookup_write_ne (bg : Option Byte) (m : Memory) {a b : Nat} (v : Byte) (h : a ≠ b) :
    Memory.lookup (Memory.write bg m a v) b = Memory.lookup m b := by
  unfold Memory.write
  split
  · exact Memory.lookup_erase_ne h
  · simp [Memory.lookup_insert, h]

/-- After a write the address reads as the byte written: listed, or the background and then unlisted. -/
theorem Memory.lookup_write_self {bg : Option Byte} {size : Nat} {m : Memory} (hm : Memory.wf bg size m = true)
    (a : Nat) (v : Byte) : (Memory.lookup (Memory.write bg m a v) a).or bg = some v := by
  unfold Memory.write
  split
  · next h => simp [Memory.lookup_erase_self hm, h]
  · simp [Memory.lookup_insert]

/-- Where the background is no value, a write lists the byte, in any memory. -/
theorem Memory.lookup_write_none (m : Memory) (a : Nat) (v : Byte) (b : Nat) :
    Memory.lookup (Memory.write none m a v) b = if a = b then some v else Memory.lookup m b := by
  simp [Memory.write, Memory.lookup_insert]

/-! ### Every operation keeps the canonical form -/

theorem Memory.mem_insert {m : Memory} {a : Nat} {v : Byte} {c : Host.Cell} (h : c ∈ Memory.insert m a v) :
    c = (a, v) ∨ c ∈ m := by
  induction m with
  | nil => simpa [Memory.insert] using h
  | cons e m ih =>
    obtain ⟨d, u⟩ := e
    simp only [Memory.insert] at h
    split at h
    · simpa using h
    · split at h <;> rcases mem_cons.1 h with rfl | h
      · exact .inl rfl
      · exact .inr (mem_cons_of_mem _ h)
      · exact .inr mem_cons_self
      · exact (ih h).imp_right (mem_cons_of_mem _)

theorem Memory.mem_erase {m : Memory} {a : Nat} {c : Host.Cell} (h : c ∈ Memory.erase m a) : c ∈ m := by
  induction m with
  | nil => exact h
  | cons e m ih =>
    obtain ⟨d, u⟩ := e
    simp only [Memory.erase] at h
    split at h
    · exact mem_cons_of_mem _ h
    · rcases mem_cons.1 h with rfl | h
      · exact mem_cons_self
      · exact mem_cons_of_mem _ (ih h)

theorem Memory.wf_insert {bg : Option Byte} {size : Nat} {m : Memory} (hm : Memory.wf bg size m = true) {a : Nat}
    {v : Byte} (ha : a < size) (hv : bg ≠ some v) : Memory.wf bg size (Memory.insert m a v) = true := by
  induction m with
  | nil => simp [Memory.insert, Memory.wf_cons, Memory.wf_nil, ha, hv]
  | cons c m ih =>
    obtain ⟨d, u⟩ := c
    have hc := Memory.wf_cons.1 hm
    simp only [Memory.insert]
    split
    · next h =>
      refine Memory.wf_cons.2 ⟨?_, ha, hv, hm⟩
      rintro e he
      rcases mem_cons.1 he with rfl | he
      · exact h
      · exact h.trans (hc.1 e he)
    · split
      · next h => subst h; exact Memory.wf_cons.2 ⟨hc.1, ha, hv, hc.2.2.2⟩
      · refine Memory.wf_cons.2 ⟨?_, hc.2.1, hc.2.2.1, ih hc.2.2.2⟩
        intro e he
        rcases Memory.mem_insert he with rfl | he
        · simp only; omega
        · exact hc.1 e he

theorem Memory.wf_erase {bg : Option Byte} {size : Nat} {m : Memory} (hm : Memory.wf bg size m = true) (a : Nat) :
    Memory.wf bg size (Memory.erase m a) = true := by
  induction m with
  | nil => exact hm
  | cons c m ih =>
    obtain ⟨d, u⟩ := c
    have hc := Memory.wf_cons.1 hm
    simp only [Memory.erase]
    split
    · exact hc.2.2.2
    · exact Memory.wf_cons.2 ⟨fun e he => hc.1 e (Memory.mem_erase he), hc.2.1, hc.2.2.1, ih hc.2.2.2⟩

/-- A write inside the address space keeps the canonical form. -/
theorem Memory.wf_write {bg : Option Byte} {size : Nat} {m : Memory} (hm : Memory.wf bg size m = true) {a : Nat}
    (ha : a < size) (v : Byte) : Memory.wf bg size (Memory.write bg m a v) = true := by
  unfold Memory.write
  split
  · exact Memory.wf_erase hm a
  · next h => exact Memory.wf_insert hm ha h

/-! ### Equal reads, equal data -/

/-- Two canonical memories with the same background that read alike everywhere are equal. -/
theorem Memory.eq_of_lookup {bg : Option Byte} {size : Nat} {m n : Memory} (hm : Memory.wf bg size m = true)
    (hn : Memory.wf bg size n = true) (h : ∀ a, Memory.lookup m a = Memory.lookup n a) : m = n := by
  induction m generalizing n with
  | nil =>
    cases n with
    | nil => rfl
    | cons c n => obtain ⟨b, u⟩ := c; have := h b; simp [Memory.lookup_cons] at this
  | cons c m ih =>
    obtain ⟨a, v⟩ := c
    cases n with
    | nil => have := h a; simp [Memory.lookup_cons] at this
    | cons e n =>
      obtain ⟨b, u⟩ := e
      have hm' := Memory.wf_cons.1 hm
      have hn' := Memory.wf_cons.1 hn
      have hab : a = b := by
        rcases Nat.lt_trichotomy a b with hlt | heq | hgt
        · have h1 := h a
          rw [Memory.lookup_eq_none_of_lt (m := (b, u) :: n)] at h1
          · simp [Memory.lookup_cons] at h1
          · intro e he
            rcases mem_cons.1 he with rfl | he
            · exact hlt
            · exact hlt.trans (hn'.1 e he)
        · exact heq
        · have h1 := h b
          rw [Memory.lookup_eq_none_of_lt (m := (a, v) :: m)] at h1
          · simp [Memory.lookup_cons] at h1
          · intro e he
            rcases mem_cons.1 he with rfl | he
            · exact hgt
            · exact hgt.trans (hm'.1 e he)
      subst hab
      have hv : v = u := by have := h a; simpa [Memory.lookup_cons] using this
      subst hv
      have : m = n := by
        refine ih hm'.2.2.2 hn'.2.2.2 fun d => ?_
        by_cases hd : a = d
        · subst hd
          rw [Memory.lookup_eq_none_of_lt hm'.1, Memory.lookup_eq_none_of_lt hn'.1]
        · have := h d; simpa [Memory.lookup_cons, hd] using this
      rw [this]

end Sys2Proof.Machine
end

