-- ==== Sys2Proof/Laws/Display.lean ====
section
/-! SUPPORT. What the display controller does with bytes (44_display_transport.md R250, R251): the cases of one byte, a
window sequence, and that GDDRAM keeps its canonical form. -/

namespace Sys2Proof.Machine

/-! ### Sequences of bytes -/

@[simp] theorem sinkBytes_nil (opc : Opcodes) (k : Sink) : sinkBytes opc k [] = k := rfl

@[simp] theorem sinkBytes_cons (opc : Opcodes) (k : Sink) (t : TxByte) (ts : List TxByte) :
    sinkBytes opc k (t :: ts) = sinkBytes opc (sinkByte opc k t) ts := rfl

theorem sinkBytes_append (opc : Opcodes) (k : Sink) (ts us : List TxByte) :
    sinkBytes opc k (ts ++ us) = sinkBytes opc (sinkBytes opc k ts) us := by simp [sinkBytes]

/-- A lost controller stays lost (log 13). -/
theorem sinkBytes_lost (opc : Opcodes) (n : Nat) (ts : List TxByte) : sinkBytes opc ⟨.lost, n⟩ ts = ⟨.lost, n⟩ := by
  induction ts with
  | nil => rfl
  | cons t ts ih => simpa [sinkByte] using ih

@[simp] theorem sinkByte_data (opc : Opcodes) (d : Display) (n : Nat) (b : Byte) :
    sinkByte opc ⟨.tracked d, n⟩ (dataByte b) = sinkData b d n := rfl

@[simp] theorem sinkByte_command (opc : Opcodes) (d : Display) (n : Nat) (b : Byte) :
    sinkByte opc ⟨.tracked d, n⟩ (cmdByte b) = sinkCommand opc b d n := rfl

/-! ### One data byte (R251, R252) -/

/-- Everything a data byte can do: the spec's write and walk, an undefined write, or a lost controller. -/
theorem sinkData_cases (b : Byte) (d : Display) (n : Nat) :
    (d.parse = .idle ∧ d.takesData = true ∧ sinkData b d n = ⟨.tracked (d.putData b), n⟩) ∨
      (d.parse = .idle ∧ d.takesData = false ∧ sinkData b d n = ⟨.tracked (d.scatter n), n + 1⟩) ∨
      (d.parse ≠ .idle ∧ sinkData b d n = ⟨.lost, n⟩) := by
  unfold sinkData
  by_cases h : d.parse = .idle
  · cases h' : d.takesData <;> simp [h]
  · simp [h]

theorem Display.takesData_iff (d : Display) :
    d.takesData = true ↔ d.addrMode = 0 ∧ d.colStart ≤ d.colEnd ∧ d.pageStart ≤ d.pageEnd := by
  simp [Display.takesData, Display.windowOk]

theorem Display.address_lt (d : Display) : d.address < fbBytes := by
  have h1 := d.col.isLt
  have h2 := d.page.isLt
  simp only [Display.address, fbWidth, fbBytes]
  omega

@[simp] theorem Display.advance_gddram (d : Display) : d.advance.gddram = d.gddram := by
  unfold Display.advance; split_ifs <;> rfl

@[simp] theorem Display.advance_parse (d : Display) : d.advance.parse = d.parse := by
  unfold Display.advance; split_ifs <;> rfl

@[simp] theorem Display.advance_addrMode (d : Display) : d.advance.addrMode = d.addrMode := by
  unfold Display.advance; split_ifs <;> rfl

@[simp] theorem Display.advance_colStart (d : Display) : d.advance.colStart = d.colStart := by
  unfold Display.advance; split_ifs <;> rfl

@[simp] theorem Display.advance_colEnd (d : Display) : d.advance.colEnd = d.colEnd := by
  unfold Display.advance; split_ifs <;> rfl

@[simp] theorem Display.advance_pageStart (d : Display) : d.advance.pageStart = d.pageStart := by
  unfold Display.advance; split_ifs <;> rfl

@[simp] theorem Display.advance_pageEnd (d : Display) : d.advance.pageEnd = d.pageEnd := by
  unfold Display.advance; split_ifs <;> rfl

@[simp] theorem Display.putData_parse (d : Display) (b : Byte) : (d.putData b).parse = d.parse := by
  simp [Display.putData]

@[simp] theorem Display.putData_takesData (d : Display) (b : Byte) : (d.putData b).takesData = d.takesData := by
  simp [Display.putData, Display.takesData, Display.windowOk]

/-- A data byte changes the byte under the pointers and no other (R251). -/
theorem Display.shows_putData (d : Display) (b : Byte) (a : Nat) :
    (d.putData b).shows a = if a = d.address then some b else d.shows a := by
  simp [Display.putData, Display.shows, gddramBackground, Memory.lookup_write_none, eq_comm]

/-! ### One command byte (R250) -/

/-- The command bytes of 30_encoding.md R113 that take parameters. -/
theorem openCommand_standard (b : Byte) :
    openCommand Opcodes.standard b =
      if b = 0x21 then some (.awaitTwo .colAddr) else if b = 0x22 then some (.awaitTwo .pageAddr)
      else if b = 0x20 then some (.awaitOne .addrMode) else if b = 0x81 then some (.awaitOne .contrast)
      else if b = 0xA8 then some (.awaitOne .muxRatio) else if b = 0x8D then some (.awaitOne .chargePump)
      else none := rfl

/-- A command byte without parameters writes no GDDRAM (R250). -/
theorem plainCommand_gddram {opc : Opcodes} {b : Byte} {d e : Display} (h : plainCommand opc b d = some e) :
    e.gddram = d.gddram := by
  unfold plainCommand at h
  split_ifs at h <;> simp_all [← Option.some.inj h]

/-- Everything a command byte can do on an idle controller (R250, U8). -/
theorem sinkCommand_idle {opc : Opcodes} {b : Byte} {d : Display} (h : d.parse = .idle) (n : Nat) :
    (∃ p, openCommand opc b = some p ∧ sinkCommand opc b d n = ⟨.tracked { d with parse := p }, n⟩) ∨
      (∃ e, openCommand opc b = none ∧ plainCommand opc b d = some e ∧ sinkCommand opc b d n = ⟨.tracked e, n⟩) ∨
      (openCommand opc b = none ∧ plainCommand opc b d = none ∧ sinkCommand opc b d n = ⟨.lost, n⟩) := by
  simp only [sinkCommand, h]
  cases h1 : openCommand opc b with
  | some p => exact .inl ⟨p, rfl, rfl⟩
  | none =>
    cases h2 : plainCommand opc b d with
    | some e => exact .inr (.inl ⟨e, rfl, rfl, rfl⟩)
    | none => exact .inr (.inr ⟨rfl, rfl, rfl⟩)

/-- The whole window sequence on an idle controller: the window is set, the pointer is at its start, the parser is idle
again and nothing else has changed (30 R112, 44 R250). -/
theorem sinkBytes_setWindow {d : Display} (hp : d.parse = .idle) (n : Nat) {c0 c1 p0 p1 : Nat} (hc : c0 ≤ c1)
    (hc1 : c1 < 128) (hq : p0 ≤ p1) (hp1 : p1 < 8) :
    sinkBytes Opcodes.standard ⟨.tracked d, n⟩ (setWindow Opcodes.standard c0 c1 p0 p1) =
      ⟨.tracked
        { d with
          colStart := BitVec.ofNat 7 c0, colEnd := BitVec.ofNat 7 c1, col := BitVec.ofNat 7 c0
          pageStart := BitVec.ofNat 3 p0, pageEnd := BitVec.ofNat 3 p1, page := BitVec.ofNat 3 p0
          parse := .idle }, n⟩ := by
  have e7 : ∀ c : Nat, (BitVec.ofNat 8 c).extractLsb' 0 7 = BitVec.ofNat 7 c := by
    intro c; apply BitVec.eq_of_toNat_eq; simp
  have e3 : ∀ c : Nat, (BitVec.ofNat 8 c).extractLsb' 0 3 = BitVec.ofNat 3 c := by
    intro c; apply BitVec.eq_of_toNat_eq; simp
  have h1 : openCommand Opcodes.standard Opcodes.standard.colAddr = some (.awaitTwo .colAddr) := by decide
  have h2 : openCommand Opcodes.standard Opcodes.standard.pageAddr = some (.awaitTwo .pageAddr) := by decide
  have i1 : inverted .colAddr (BitVec.ofNat 8 c0) (BitVec.ofNat 8 c1) = false := by
    simp only [inverted, e7, decide_eq_false_iff_not, BitVec.lt_def, BitVec.toNat_ofNat]; omega
  have i2 : inverted .pageAddr (BitVec.ofNat 8 p0) (BitVec.ofNat 8 p1) = false := by
    simp only [inverted, e3, decide_eq_false_iff_not, BitVec.lt_def, BitVec.toNat_ofNat]; omega
  simp [setWindow, sinkCommand, hp, h1, h2, i1, i2, Display.finishTwo, e7, e3]

/-! ### GDDRAM keeps its canonical form -/

theorem Sink.wf_tracked (d : Display) (n : Nat) :
    Sink.wf ⟨.tracked d, n⟩ = Memory.wf gddramBackground fbBytes d.gddram := rfl

theorem Sink.wf_lost (n : Nat) : Sink.wf ⟨.lost, n⟩ = true := rfl

theorem sinkByte_wf (opc : Opcodes) {k : Sink} (hk : k.wf = true) (t : TxByte) : (sinkByte opc k t).wf = true := by
  obtain ⟨c, n⟩ := k
  cases c with
  | lost => exact hk
  | tracked d =>
    obtain ⟨dc, b⟩ := t
    rw [Sink.wf_tracked] at hk
    cases dc with
    | data =>
      change (sinkData b d n).wf = true
      rcases sinkData_cases b d n with ⟨-, -, h⟩ | ⟨-, -, h⟩ | ⟨-, h⟩ <;> rw [h]
      · rw [Sink.wf_tracked]
        simpa [Display.putData] using Memory.wf_write hk d.address_lt b
      · exact Memory.wf_nil _ _
      · exact Sink.wf_lost n
    | command =>
      change (sinkCommand opc b d n).wf = true
      cases hp : d.parse with
      | idle =>
        rcases sinkCommand_idle (opc := opc) (b := b) hp n with ⟨p, -, h⟩ | ⟨e, -, he, h⟩ | ⟨-, -, h⟩ <;> rw [h]
        · exact hk
        · rwa [Sink.wf_tracked, plainCommand_gddram he]
        · exact Sink.wf_lost n
      | awaitOne c => simp only [sinkCommand, hp]; cases c <;> exact hk
      | awaitTwo c => simp only [sinkCommand, hp]; exact hk
      | awaitSecond c s => simp only [sinkCommand, hp]; split_ifs <;> cases c <;> exact hk

theorem sinkBytes_wf (opc : Opcodes) {k : Sink} (hk : k.wf = true) (ts : List TxByte) :
    (sinkBytes opc k ts).wf = true := by
  induction ts generalizing k with
  | nil => exact hk
  | cons t ts ih => exact ih (sinkByte_wf opc hk t)

end Sys2Proof.Machine
end

