-- ==== Sys2Proof/Laws/State.lean ====
section
/-! SUPPORT. One lemma per field per update of the state, so that no later proof unfolds a record update. -/

namespace Sys2Proof.Machine

/-! ### `respond` -/

@[simp] theorem State.respond_cfg (s : State) (r : Word) : (s.respond r).cfg = s.cfg := rfl
@[simp] theorem State.respond_ball (s : State) (r : Word) : (s.respond r).ball = s.ball := rfl
@[simp] theorem State.respond_pad0 (s : State) (r : Word) : (s.respond r).pad0 = s.pad0 := rfl
@[simp] theorem State.respond_pad1 (s : State) (r : Word) : (s.respond r).pad1 = s.pad1 := rfl
@[simp] theorem State.respond_score0 (s : State) (r : Word) : (s.respond r).score0 = s.score0 := rfl
@[simp] theorem State.respond_score1 (s : State) (r : Word) : (s.respond r).score1 = s.score1 := rfl
@[simp] theorem State.respond_tickEn (s : State) (r : Word) : (s.respond r).tickEn = s.tickEn := rfl
@[simp] theorem State.respond_fb (s : State) (r : Word) : (s.respond r).fb = s.fb := rfl
@[simp] theorem State.respond_txlog (s : State) (r : Word) : (s.respond r).txlog = s.txlog := rfl
@[simp] theorem State.respond_sink (s : State) (r : Word) : (s.respond r).sink = s.sink := rfl
@[simp] theorem State.respond_resps (s : State) (r : Word) : (s.respond r).resps = s.resps ++ [r] := rfl
@[simp] theorem State.respond_actions (s : State) (r : Word) : (s.respond r).actions = s.actions := rfl
@[simp] theorem State.respond_ci (s : State) (r : Word) : (s.respond r).ci = s.ci := rfl

/-! ### `setBall` -/

@[simp] theorem State.setBall_cfg (s : State) (b : Ball) : (s.setBall b).cfg = s.cfg := rfl
@[simp] theorem State.setBall_ball (s : State) (b : Ball) : (s.setBall b).ball = b := rfl
@[simp] theorem State.setBall_pad0 (s : State) (b : Ball) : (s.setBall b).pad0 = s.pad0 := rfl
@[simp] theorem State.setBall_pad1 (s : State) (b : Ball) : (s.setBall b).pad1 = s.pad1 := rfl
@[simp] theorem State.setBall_score0 (s : State) (b : Ball) : (s.setBall b).score0 = s.score0 := rfl
@[simp] theorem State.setBall_score1 (s : State) (b : Ball) : (s.setBall b).score1 = s.score1 := rfl
@[simp] theorem State.setBall_tickEn (s : State) (b : Ball) : (s.setBall b).tickEn = s.tickEn := rfl
@[simp] theorem State.setBall_fb (s : State) (b : Ball) : (s.setBall b).fb = s.fb := rfl
@[simp] theorem State.setBall_txlog (s : State) (b : Ball) : (s.setBall b).txlog = s.txlog := rfl
@[simp] theorem State.setBall_sink (s : State) (b : Ball) : (s.setBall b).sink = s.sink := rfl
@[simp] theorem State.setBall_resps (s : State) (b : Ball) : (s.setBall b).resps = s.resps := rfl
@[simp] theorem State.setBall_actions (s : State) (b : Ball) : (s.setBall b).actions = s.actions := rfl
@[simp] theorem State.setBall_ci (s : State) (b : Ball) : (s.setBall b).ci = s.ci := rfl

/-! ### `setPad` -/

@[simp] theorem State.setPad_cfg (s : State) (p : Side) (v : Paddle) : (s.setPad p v).cfg = s.cfg := by cases p <;> rfl
@[simp] theorem State.setPad_ball (s : State) (p : Side) (v : Paddle) : (s.setPad p v).ball = s.ball := by cases p <;> rfl
@[simp] theorem State.setPad_score0 (s : State) (p : Side) (v : Paddle) : (s.setPad p v).score0 = s.score0 := by cases p <;> rfl
@[simp] theorem State.setPad_score1 (s : State) (p : Side) (v : Paddle) : (s.setPad p v).score1 = s.score1 := by cases p <;> rfl
@[simp] theorem State.setPad_tickEn (s : State) (p : Side) (v : Paddle) : (s.setPad p v).tickEn = s.tickEn := by cases p <;> rfl
@[simp] theorem State.setPad_fb (s : State) (p : Side) (v : Paddle) : (s.setPad p v).fb = s.fb := by cases p <;> rfl
@[simp] theorem State.setPad_txlog (s : State) (p : Side) (v : Paddle) : (s.setPad p v).txlog = s.txlog := by cases p <;> rfl
@[simp] theorem State.setPad_sink (s : State) (p : Side) (v : Paddle) : (s.setPad p v).sink = s.sink := by cases p <;> rfl
@[simp] theorem State.setPad_resps (s : State) (p : Side) (v : Paddle) : (s.setPad p v).resps = s.resps := by cases p <;> rfl
@[simp] theorem State.setPad_actions (s : State) (p : Side) (v : Paddle) : (s.setPad p v).actions = s.actions := by cases p <;> rfl
@[simp] theorem State.setPad_ci (s : State) (p : Side) (v : Paddle) : (s.setPad p v).ci = s.ci := by cases p <;> rfl

@[simp] theorem State.setPad_left_pad0 (s : State) (v : Paddle) : (s.setPad .left v).pad0 = v := rfl
@[simp] theorem State.setPad_left_pad1 (s : State) (v : Paddle) : (s.setPad .left v).pad1 = s.pad1 := rfl
@[simp] theorem State.setPad_right_pad0 (s : State) (v : Paddle) : (s.setPad .right v).pad0 = s.pad0 := rfl
@[simp] theorem State.setPad_right_pad1 (s : State) (v : Paddle) : (s.setPad .right v).pad1 = v := rfl
theorem State.pad_setPad (s : State) (p q : Side) (v : Paddle) :
    (s.setPad p v).pad q = if q = p then v else s.pad q := by cases p <;> cases q <;> rfl
@[simp] theorem State.setPad_pad (s : State) (p : Side) : s.setPad p (s.pad p) = s := by cases p <;> rfl

/-! ### `setScore` -/

@[simp] theorem State.setScore_cfg (s : State) (p : Side) (v : Byte) : (s.setScore p v).cfg = s.cfg := by cases p <;> rfl
@[simp] theorem State.setScore_ball (s : State) (p : Side) (v : Byte) : (s.setScore p v).ball = s.ball := by cases p <;> rfl
@[simp] theorem State.setScore_pad0 (s : State) (p : Side) (v : Byte) : (s.setScore p v).pad0 = s.pad0 := by cases p <;> rfl
@[simp] theorem State.setScore_pad1 (s : State) (p : Side) (v : Byte) : (s.setScore p v).pad1 = s.pad1 := by cases p <;> rfl
@[simp] theorem State.setScore_tickEn (s : State) (p : Side) (v : Byte) : (s.setScore p v).tickEn = s.tickEn := by cases p <;> rfl
@[simp] theorem State.setScore_fb (s : State) (p : Side) (v : Byte) : (s.setScore p v).fb = s.fb := by cases p <;> rfl
@[simp] theorem State.setScore_txlog (s : State) (p : Side) (v : Byte) : (s.setScore p v).txlog = s.txlog := by cases p <;> rfl
@[simp] theorem State.setScore_sink (s : State) (p : Side) (v : Byte) : (s.setScore p v).sink = s.sink := by cases p <;> rfl
@[simp] theorem State.setScore_resps (s : State) (p : Side) (v : Byte) : (s.setScore p v).resps = s.resps := by cases p <;> rfl
@[simp] theorem State.setScore_actions (s : State) (p : Side) (v : Byte) : (s.setScore p v).actions = s.actions := by cases p <;> rfl
@[simp] theorem State.setScore_ci (s : State) (p : Side) (v : Byte) : (s.setScore p v).ci = s.ci := by cases p <;> rfl

@[simp] theorem State.setScore_left_score0 (s : State) (v : Byte) : (s.setScore .left v).score0 = v := rfl
@[simp] theorem State.setScore_left_score1 (s : State) (v : Byte) : (s.setScore .left v).score1 = s.score1 := rfl
@[simp] theorem State.setScore_right_score0 (s : State) (v : Byte) : (s.setScore .right v).score0 = s.score0 := rfl
@[simp] theorem State.setScore_right_score1 (s : State) (v : Byte) : (s.setScore .right v).score1 = v := rfl
theorem State.score_setScore (s : State) (p q : Side) (v : Byte) :
    (s.setScore p v).score q = if q = p then v else s.score q := by cases p <;> cases q <;> rfl

/-! ### `fbWrite` -/

@[simp] theorem State.fbWrite_cfg (s : State) (a : Nat) (v : Byte) : (fbWrite s a v).cfg = s.cfg := rfl
@[simp] theorem State.fbWrite_ball (s : State) (a : Nat) (v : Byte) : (fbWrite s a v).ball = s.ball := rfl
@[simp] theorem State.fbWrite_pad0 (s : State) (a : Nat) (v : Byte) : (fbWrite s a v).pad0 = s.pad0 := rfl
@[simp] theorem State.fbWrite_pad1 (s : State) (a : Nat) (v : Byte) : (fbWrite s a v).pad1 = s.pad1 := rfl
@[simp] theorem State.fbWrite_score0 (s : State) (a : Nat) (v : Byte) : (fbWrite s a v).score0 = s.score0 := rfl
@[simp] theorem State.fbWrite_score1 (s : State) (a : Nat) (v : Byte) : (fbWrite s a v).score1 = s.score1 := rfl
@[simp] theorem State.fbWrite_tickEn (s : State) (a : Nat) (v : Byte) : (fbWrite s a v).tickEn = s.tickEn := rfl
@[simp] theorem State.fbWrite_fb (s : State) (a : Nat) (v : Byte) : (fbWrite s a v).fb = Memory.write (some fbBackground) s.fb a v := rfl
@[simp] theorem State.fbWrite_txlog (s : State) (a : Nat) (v : Byte) : (fbWrite s a v).txlog = s.txlog := rfl
@[simp] theorem State.fbWrite_sink (s : State) (a : Nat) (v : Byte) : (fbWrite s a v).sink = s.sink := rfl
@[simp] theorem State.fbWrite_resps (s : State) (a : Nat) (v : Byte) : (fbWrite s a v).resps = s.resps := rfl
@[simp] theorem State.fbWrite_actions (s : State) (a : Nat) (v : Byte) : (fbWrite s a v).actions = s.actions := rfl
@[simp] theorem State.fbWrite_ci (s : State) (a : Nat) (v : Byte) : (fbWrite s a v).ci = s.ci := rfl

/-! ### `transmit` -/

@[simp] theorem State.transmit_cfg (s : State) (ts : List TxByte) : (s.transmit ts).cfg = s.cfg := rfl
@[simp] theorem State.transmit_ball (s : State) (ts : List TxByte) : (s.transmit ts).ball = s.ball := rfl
@[simp] theorem State.transmit_pad0 (s : State) (ts : List TxByte) : (s.transmit ts).pad0 = s.pad0 := rfl
@[simp] theorem State.transmit_pad1 (s : State) (ts : List TxByte) : (s.transmit ts).pad1 = s.pad1 := rfl
@[simp] theorem State.transmit_score0 (s : State) (ts : List TxByte) : (s.transmit ts).score0 = s.score0 := rfl
@[simp] theorem State.transmit_score1 (s : State) (ts : List TxByte) : (s.transmit ts).score1 = s.score1 := rfl
@[simp] theorem State.transmit_tickEn (s : State) (ts : List TxByte) : (s.transmit ts).tickEn = s.tickEn := rfl
@[simp] theorem State.transmit_fb (s : State) (ts : List TxByte) : (s.transmit ts).fb = s.fb := rfl
@[simp] theorem State.transmit_txlog (s : State) (ts : List TxByte) : (s.transmit ts).txlog = s.txlog ++ ts := rfl
@[simp] theorem State.transmit_sink (s : State) (ts : List TxByte) : (s.transmit ts).sink = sinkBytes s.cfg.opc s.sink ts := rfl
@[simp] theorem State.transmit_resps (s : State) (ts : List TxByte) : (s.transmit ts).resps = s.resps := rfl
@[simp] theorem State.transmit_actions (s : State) (ts : List TxByte) : (s.transmit ts).actions = s.actions := rfl
@[simp] theorem State.transmit_ci (s : State) (ts : List TxByte) : (s.transmit ts).ci = s.ci := rfl

/-! ### `take` and `takeCommand` -/

@[simp] theorem State.take_cfg (s : State) (rest : List Action) : (s.take rest).cfg = s.cfg := rfl
@[simp] theorem State.take_ball (s : State) (rest : List Action) : (s.take rest).ball = s.ball := rfl
@[simp] theorem State.take_pad0 (s : State) (rest : List Action) : (s.take rest).pad0 = s.pad0 := rfl
@[simp] theorem State.take_pad1 (s : State) (rest : List Action) : (s.take rest).pad1 = s.pad1 := rfl
@[simp] theorem State.take_score0 (s : State) (rest : List Action) : (s.take rest).score0 = s.score0 := rfl
@[simp] theorem State.take_score1 (s : State) (rest : List Action) : (s.take rest).score1 = s.score1 := rfl
@[simp] theorem State.take_tickEn (s : State) (rest : List Action) : (s.take rest).tickEn = s.tickEn := rfl
@[simp] theorem State.take_fb (s : State) (rest : List Action) : (s.take rest).fb = s.fb := rfl
@[simp] theorem State.take_txlog (s : State) (rest : List Action) : (s.take rest).txlog = s.txlog := rfl
@[simp] theorem State.take_sink (s : State) (rest : List Action) : (s.take rest).sink = s.sink := rfl
@[simp] theorem State.take_resps (s : State) (rest : List Action) : (s.take rest).resps = s.resps := rfl
@[simp] theorem State.take_actions (s : State) (rest : List Action) : (s.take rest).actions = rest := rfl
@[simp] theorem State.take_ci (s : State) (rest : List Action) : (s.take rest).ci = s.ci := rfl

@[simp] theorem State.takeCommand_cfg (s : State) (rest : List Action) : (s.takeCommand rest).cfg = s.cfg := rfl
@[simp] theorem State.takeCommand_ball (s : State) (rest : List Action) : (s.takeCommand rest).ball = s.ball := rfl
@[simp] theorem State.takeCommand_pad0 (s : State) (rest : List Action) : (s.takeCommand rest).pad0 = s.pad0 := rfl
@[simp] theorem State.takeCommand_pad1 (s : State) (rest : List Action) : (s.takeCommand rest).pad1 = s.pad1 := rfl
@[simp] theorem State.takeCommand_score0 (s : State) (rest : List Action) : (s.takeCommand rest).score0 = s.score0 := rfl
@[simp] theorem State.takeCommand_score1 (s : State) (rest : List Action) : (s.takeCommand rest).score1 = s.score1 := rfl
@[simp] theorem State.takeCommand_tickEn (s : State) (rest : List Action) : (s.takeCommand rest).tickEn = s.tickEn := rfl
@[simp] theorem State.takeCommand_fb (s : State) (rest : List Action) : (s.takeCommand rest).fb = s.fb := rfl
@[simp] theorem State.takeCommand_txlog (s : State) (rest : List Action) : (s.takeCommand rest).txlog = s.txlog := rfl
@[simp] theorem State.takeCommand_sink (s : State) (rest : List Action) : (s.takeCommand rest).sink = s.sink := rfl
@[simp] theorem State.takeCommand_resps (s : State) (rest : List Action) : (s.takeCommand rest).resps = s.resps := rfl
@[simp] theorem State.takeCommand_actions (s : State) (rest : List Action) : (s.takeCommand rest).actions = rest := rfl
@[simp] theorem State.takeCommand_ci (s : State) (rest : List Action) : (s.takeCommand rest).ci = s.ci + 1 := rfl

/-! ### `ballStep` -/

@[simp] theorem State.ballStep_cfg (s : State) : (s.ballStep).cfg = s.cfg := rfl
@[simp] theorem State.ballStep_ball (s : State) : (s.ballStep).ball = stepBall s.cfg.width s.ball := rfl
@[simp] theorem State.ballStep_pad0 (s : State) : (s.ballStep).pad0 = s.pad0 := rfl
@[simp] theorem State.ballStep_pad1 (s : State) : (s.ballStep).pad1 = s.pad1 := rfl
@[simp] theorem State.ballStep_score0 (s : State) : (s.ballStep).score0 = s.score0 := rfl
@[simp] theorem State.ballStep_score1 (s : State) : (s.ballStep).score1 = s.score1 := rfl
@[simp] theorem State.ballStep_tickEn (s : State) : (s.ballStep).tickEn = s.tickEn := rfl
@[simp] theorem State.ballStep_fb (s : State) : (s.ballStep).fb = s.fb := rfl
@[simp] theorem State.ballStep_txlog (s : State) : (s.ballStep).txlog = s.txlog := rfl
@[simp] theorem State.ballStep_sink (s : State) : (s.ballStep).sink = s.sink := rfl
@[simp] theorem State.ballStep_resps (s : State) : (s.ballStep).resps = s.resps := rfl
@[simp] theorem State.ballStep_actions (s : State) : (s.ballStep).actions = s.actions := rfl
@[simp] theorem State.ballStep_ci (s : State) : (s.ballStep).ci = s.ci := rfl

/-! ### `serve` -/

@[simp] theorem State.serve_cfg (s : State) : (s.serve).cfg = s.cfg := rfl
@[simp] theorem State.serve_pad0 (s : State) : (s.serve).pad0 =
    ⟨wrapW s.cfg.width s.cfg.paddleInitPos, 0⟩ := rfl
@[simp] theorem State.serve_pad1 (s : State) : (s.serve).pad1 =
    ⟨wrapW s.cfg.width s.cfg.paddleInitPos, 0⟩ := rfl
@[simp] theorem State.serve_score0 (s : State) : (s.serve).score0 = clearPend s.score0 := rfl
@[simp] theorem State.serve_score1 (s : State) : (s.serve).score1 = clearPend s.score1 := rfl
@[simp] theorem State.serve_tickEn (s : State) : (s.serve).tickEn = s.tickEn := rfl
@[simp] theorem State.serve_fb (s : State) : (s.serve).fb = s.fb := rfl
@[simp] theorem State.serve_txlog (s : State) : (s.serve).txlog = s.txlog := rfl
@[simp] theorem State.serve_sink (s : State) : (s.serve).sink = s.sink := rfl
@[simp] theorem State.serve_resps (s : State) : (s.serve).resps = s.resps := rfl
@[simp] theorem State.serve_actions (s : State) : (s.serve).actions = s.actions := rfl
@[simp] theorem State.serve_ci (s : State) : (s.serve).ci = s.ci := rfl

end Sys2Proof.Machine
end

