-- ==== Sys2Proof/Laws/Drawing.lean ====
section
/-! SUPPORT. What the drawing operations do: the framebuffer byte, Plot, a list of plots, BlockWrite and a glyph
(43_framebuffer.md R203, R205, R210, R214). -/

namespace Sys2Proof.Machine

/-! ### States that differ in the framebuffer only -/

/-- `t` is `s` with another framebuffer. -/
def OnlyFb (s t : State) : Prop := t = { s with fb := t.fb }

theorem OnlyFb.refl (s : State) : OnlyFb s s := rfl

theorem OnlyFb.trans {s t u : State} (h1 : OnlyFb s t) (h2 : OnlyFb t u) : OnlyFb s u := by
  unfold OnlyFb at *; rw [h2, h1]

theorem onlyFb_fbWrite (s : State) (a : Nat) (v : Byte) : OnlyFb s (fbWrite s a v) := rfl

/-! ### One byte -/

theorem fbRead_fbWrite_ne (s : State) {a b : Nat} (v : Byte) (h : a ≠ b) : fbRead (fbWrite s a v) b = fbRead s b := by
  simp [fbRead, Memory.lookup_write_ne _ _ _ h]

theorem fbRead_fbWrite_self {s : State} (hs : s.fbWf) (a : Nat) (v : Byte) : fbRead (fbWrite s a v) a = v := by
  have h := Memory.lookup_write_self hs a v
  unfold fbRead
  rw [State.fbWrite_fb]
  cases h' : Memory.lookup (Memory.write (some fbBackground) s.fb a v) a <;> simp_all

theorem fbRead_fbWrite {s : State} (hs : s.fbWf) (a b : Nat) (v : Byte) :
    fbRead (fbWrite s a v) b = if b = a then v else fbRead s b := by
  split
  · next h => subst h; exact fbRead_fbWrite_self hs b v
  · next h => exact fbRead_fbWrite_ne s v (Ne.symm h)

theorem fbWf_fbWrite {s : State} (hs : s.fbWf) {a : Nat} (ha : a < fbBytes) (v : Byte) : (fbWrite s a v).fbWf :=
  Memory.wf_write hs ha v

theorem fbRead_congr {s t : State} (h : s.fb = t.fb) (a : Nat) : fbRead s a = fbRead t a := by simp [fbRead, h]

/-- Two states with canonical framebuffers that read alike have the same framebuffer. -/
theorem fb_eq_of_fbRead {s t : State} (hs : s.fbWf) (ht : t.fbWf) (h : ∀ a, fbRead s a = fbRead t a) :
    s.fb = t.fb := by
  refine Memory.eq_of_lookup hs ht fun a => ?_
  have ha := h a
  have key : ∀ {u : State}, u.fbWf → ∀ v, Memory.lookup u.fb a = some v → v ≠ fbBackground := by
    intro u hu v hv e
    exact (((Memory.wf_iff _ _ _).1 hu).2 _ (Memory.lookup_mem hv)).2 (by rw [e])
  unfold fbRead at ha
  cases h1 : Memory.lookup s.fb a with
  | none =>
    cases h2 : Memory.lookup t.fb a with
    | none => rfl
    | some w => exact absurd (by simpa [h1, h2] using ha.symm) (key ht w h2)
  | some v =>
    cases h2 : Memory.lookup t.fb a with
    | none => exact absurd (by simpa [h1, h2] using ha) (key hs v h1)
    | some w => simpa [h1, h2] using ha

/-! ### Addresses and bits -/

theorem pixAddr_lt {x y : Nat} (hx : x < 128) (hy : y < 64) : pixAddr x y < fbBytes := by
  simp only [pixAddr, pageHeight, fbWidth, fbBytes]; omega

/-- Two points of the field share a byte and a bit only if they are the same point (20_memory.md R61). -/
theorem pixAddr_inj {x y x' y' : Nat} (hx : x < 128) (hx' : x' < 128) (ha : pixAddr x y = pixAddr x' y')
    (hb : pixBit y = pixBit y') : x = x' ∧ y = y' := by
  simp only [pixAddr, pixBit, pageHeight, fbWidth] at *
  omega

/-- What a mode makes of one bit (R203). -/
def PixelMode.bit : PixelMode → Bool → Bool
  | .set, _ => true
  | .clear, _ => false
  | .toggle, b => !b

theorem PixelMode.getLsbD_apply (m : PixelMode) (v : Byte) {k j : Nat} (hk : k < 8) (hj : j < 8) :
    (m.apply v k).getLsbD j = if j = k then m.bit (v.getLsbD j) else v.getLsbD j := by
  have h : ((1 : Byte) <<< k).getLsbD j = decide (j = k) := by interval_cases k <;> interval_cases j <;> decide
  have h255 : (0xFF : Byte).getLsbD j = true := by interval_cases j <;> decide
  cases m <;>
    simp only [PixelMode.apply, PixelMode.bit, BitVec.getLsbD_or, BitVec.getLsbD_and, BitVec.getLsbD_xor, h, h255] <;>
    by_cases e : j = k <;> simp [e]

/-! ### Plot -/

theorem plot_of_inField (m : PixelMode) (s : State) {x y : Nat} (hx : x < 128) (hy : y < 64) :
    plot m s ((x : Int), (y : Int)) =
      fbWrite s (pixAddr x y) (m.apply (fbRead s (pixAddr x y)) (pixBit y)) := by
  have : inField x y = true := by simp [inField, fbWidth, fbHeight]; omega
  simp [plot, this]

theorem plot_of_not_inField (m : PixelMode) (s : State) {pt : Int × Int} (h : inField pt.1 pt.2 = false) :
    plot m s pt = s := by simp [plot, h]

theorem inField_iff (x y : Int) : inField x y = true ↔ 0 ≤ x ∧ x < 128 ∧ 0 ≤ y ∧ y < 64 := by
  simp only [inField, fbWidth, fbHeight, Bool.and_eq_true, decide_eq_true_eq, and_assoc]; norm_num

/-- A point is outside the field, or it is a pair of small natural numbers. -/
theorem inField_cases (pt : Int × Int) :
    inField pt.1 pt.2 = false ∨ ∃ x y : Nat, x < 128 ∧ y < 64 ∧ pt = ((x : Int), (y : Int)) := by
  obtain ⟨x, y⟩ := pt
  cases h : inField x y with
  | false => exact .inl rfl
  | true =>
    obtain ⟨h1, h2, h3, h4⟩ := (inField_iff x y).1 h
    refine .inr ⟨x.toNat, y.toNat, by omega, by omega, ?_⟩
    simp [Int.toNat_of_nonneg h1, Int.toNat_of_nonneg h3]

theorem onlyFb_plot (m : PixelMode) (s : State) (pt : Int × Int) : OnlyFb s (plot m s pt) := by
  unfold plot; split
  · exact onlyFb_fbWrite _ _ _
  · exact OnlyFb.refl s

theorem fbWf_plot (m : PixelMode) {s : State} (hs : s.fbWf) (pt : Int × Int) : (plot m s pt).fbWf := by
  rcases inField_cases pt with h | ⟨x, y, hx, hy, rfl⟩
  · rwa [plot_of_not_inField m s h]
  · rw [plot_of_inField m s hx hy]; exact fbWf_fbWrite hs (pixAddr_lt hx hy) _

/-- Plot changes the one pixel, by its mode, and no other (R203). -/
theorem pixel_plot (m : PixelMode) {s : State} (hs : s.fbWf) (pt : Int × Int) {x y : Nat} (hx : x < 128) (hy : y < 64) :
    pixel (plot m s pt) x y = if pt = ((x : Int), (y : Int)) then m.bit (pixel s x y) else pixel s x y := by
  rcases inField_cases pt with h | ⟨px, py, hpx, hpy, rfl⟩
  · rw [plot_of_not_inField m s h, if_neg]
    rintro rfl
    have := (inField_iff x y).2 (by omega)
    simp [this] at h
  · have hp : ∀ u : State, pixel u x y = (fbRead u (pixAddr x y)).getLsbD (pixBit y) := fun u => rfl
    have hk : pixBit py < 8 := by simp only [pixBit, pageHeight]; omega
    have hj : pixBit y < 8 := by simp only [pixBit, pageHeight]; omega
    rw [plot_of_inField m s hpx hpy, hp, hp, fbRead_fbWrite hs]
    by_cases ha : pixAddr x y = pixAddr px py
    · rw [if_pos ha, ha, PixelMode.getLsbD_apply m _ hk hj]
      by_cases hb : pixBit y = pixBit py
      · obtain ⟨rfl, rfl⟩ := pixAddr_inj hx hpx ha hb
        simp
      · rw [if_neg hb, if_neg]
        intro e; simp at e; exact hb (by rw [e.2])
    · rw [if_neg ha, if_neg]
      intro e; simp at e; exact ha (by rw [e.1, e.2])

/-- A byte that a plot does not address reads as before, in any state. -/
theorem fbRead_plot_ne (m : PixelMode) (s : State) (x y : Nat) {a : Nat} (ha : a ≠ pixAddr x y) :
    fbRead (plot m s ((x : Int), (y : Int))) a = fbRead s a := by
  unfold plot
  split
  · exact fbRead_fbWrite_ne _ _ (by simpa using ha.symm)
  · rfl

/-! ### Many plots -/

theorem onlyFb_foldl {α : Type} (f : State → α → State) (hf : ∀ s a, OnlyFb s (f s a)) (l : List α) (s : State) :
    OnlyFb s (l.foldl f s) := by
  induction l generalizing s with
  | nil => exact OnlyFb.refl s
  | cons a l ih => exact (hf s a).trans (ih _)

theorem fbWf_foldl {α : Type} (f : State → α → State) (hf : ∀ s a, s.fbWf → (f s a).fbWf) (l : List α) {s : State}
    (hs : s.fbWf) : (l.foldl f s).fbWf := by
  induction l generalizing s with
  | nil => exact hs
  | cons a l ih => exact ih (hf s a hs)

theorem onlyFb_drawLine (m : PixelMode) (x0 y0 x1 y1 : Byte) (s : State) : OnlyFb s (drawLine m x0 y0 x1 y1 s) :=
  onlyFb_foldl _ (onlyFb_plot m) _ _

theorem fbWf_drawLine (m : PixelMode) (x0 y0 x1 y1 : Byte) {s : State} (hs : s.fbWf) :
    (drawLine m x0 y0 x1 y1 s).fbWf := fbWf_foldl _ (fun _ pt h => fbWf_plot m h pt) _ hs

/-- A pixel that no listed point names is unchanged by the plots. -/
theorem pixel_plots_of_not_mem (m : PixelMode) (l : List (Int × Int)) {s : State} (hs : s.fbWf) {x y : Nat}
    (hx : x < 128) (hy : y < 64) (h : ((x : Int), (y : Int)) ∉ l) :
    pixel (l.foldl (plot m) s) x y = pixel s x y := by
  induction l generalizing s with
  | nil => rfl
  | cons pt l ih =>
    have h' := not_or.1 (mt List.mem_cons.2 h)
    rw [List.foldl_cons, ih (fbWf_plot m hs pt) h'.2, pixel_plot m hs pt hx hy, if_neg (Ne.symm h'.1)]

/-- A pixel that distinct points name once changes once, by the mode. -/
theorem pixel_plots_of_mem (m : PixelMode) (l : List (Int × Int)) {s : State} (hs : s.fbWf) {x y : Nat}
    (hx : x < 128) (hy : y < 64) (hn : l.Nodup) (h : ((x : Int), (y : Int)) ∈ l) :
    pixel (l.foldl (plot m) s) x y = m.bit (pixel s x y) := by
  induction l generalizing s with
  | nil => simp at h
  | cons pt l ih =>
    have hn' := List.nodup_cons.1 hn
    rw [List.foldl_cons]
    rcases List.mem_cons.1 h with rfl | hl
    · rw [pixel_plots_of_not_mem m l (fbWf_plot m hs _) hx hy hn'.1, pixel_plot m hs _ hx hy, if_pos rfl]
    · have hne : pt ≠ ((x : Int), (y : Int)) := by rintro rfl; exact hn'.1 hl
      rw [ih (fbWf_plot m hs pt) hn'.2 hl, pixel_plot m hs pt hx hy, if_neg hne]

/-! ### BlockWrite and glyphs -/

theorem onlyFb_blockWrite (x y : Nat) (v : Byte) (s : State) : OnlyFb s (blockWrite x y v s) := by
  simp only [blockWrite]
  split_ifs
  · exact onlyFb_fbWrite _ _ _
  · exact (onlyFb_fbWrite _ _ _).trans (onlyFb_fbWrite _ _ _)
  · exact onlyFb_fbWrite _ _ _
  · exact OnlyFb.refl s

theorem fbWf_blockWrite (x y : Nat) (v : Byte) {s : State} (hs : s.fbWf) : (blockWrite x y v s).fbWf := by
  simp only [blockWrite]
  split_ifs with h1 h2 h3
  · exact fbWf_fbWrite hs (pixAddr_lt h1.1 h1.2) _
  · refine fbWf_fbWrite (fbWf_fbWrite hs (pixAddr_lt h1.1 h1.2) _) ?_ _
    simp only [pixAddr, pageHeight, numPages, fbWidth, fbHeight, fbBytes] at *
    omega
  · exact fbWf_fbWrite hs (pixAddr_lt h1.1 h1.2) _
  · exact hs

theorem onlyFb_blitColumns (x y : Nat) (cols : Fin 5 → Byte) (s : State) : OnlyFb s (blitColumns x y cols s) :=
  onlyFb_foldl _ (fun s i => onlyFb_blockWrite (x + i.val) y (cols i) s) _ _

theorem fbWf_blitColumns (x y : Nat) (cols : Fin 5 → Byte) {s : State} (hs : s.fbWf) :
    (blitColumns x y cols s).fbWf :=
  fbWf_foldl _ (fun _ i h => fbWf_blockWrite (x + i.val) y (cols i) h) _ hs

end Sys2Proof.Machine
end

