-- ==== Sys2Proof/Laws/Ops.lean ====
section
/-! SUPPORT. What the shared operations on the state can do, said once (Machine/Ops.lean): their result fields, and the
fields they leave alone. -/

namespace Sys2Proof.Machine

/-! ### RegisterPoint (42_score.md R185) -/

/-- RegisterPoint changes one score register, and only when no point is pending. -/
theorem State.registerPoint_cases (s : State) (p : Side) :
    (s.playing = true ∧ s.registerPoint p = s.setScore p (scorePoint (s.score p))) ∨
      (s.playing = false ∧ s.registerPoint p = s) := by
  cases h : s.playing <;> simp [State.registerPoint, h]

theorem State.registerPoint_of_playing {s : State} (h : s.playing = true) (p : Side) :
    s.registerPoint p = s.setScore p (scorePoint (s.score p)) := by simp [State.registerPoint, h]

theorem State.registerPoint_of_pending {s : State} (h : s.playing = false) (p : Side) : s.registerPoint p = s := by
  simp [State.registerPoint, h]

/-- A counted point sets the flag and adds one to the count modulo 128 (R185). -/
theorem scorePoint_bits {v : Byte} (h : pend v = false) : pend (scorePoint v) = true ∧ count (scorePoint v) = count v + 1 := by
  revert v; decide

theorem scorePoint_toNat {v : Byte} (h : pend v = false) : (scorePoint v).toNat = 128 + (v.toNat + 1) % 128 := by
  revert v; decide

/-- Consuming clears the flag and leaves the count (10_state.md R26). -/
theorem clearPend_bits (v : Byte) : pend (clearPend v) = false ∧ count (clearPend v) = count v := by
  revert v; decide

@[simp] theorem State.registerPoint_cfg (s : State) (p : Side) : (s.registerPoint p).cfg = s.cfg := by
  rcases s.registerPoint_cases p with h | h <;> simp [h.2]
@[simp] theorem State.registerPoint_ball (s : State) (p : Side) : (s.registerPoint p).ball = s.ball := by
  rcases s.registerPoint_cases p with h | h <;> simp [h.2]
@[simp] theorem State.registerPoint_pad0 (s : State) (p : Side) : (s.registerPoint p).pad0 = s.pad0 := by
  rcases s.registerPoint_cases p with h | h <;> simp [h.2]
@[simp] theorem State.registerPoint_pad1 (s : State) (p : Side) : (s.registerPoint p).pad1 = s.pad1 := by
  rcases s.registerPoint_cases p with h | h <;> simp [h.2]
@[simp] theorem State.registerPoint_tickEn (s : State) (p : Side) : (s.registerPoint p).tickEn = s.tickEn := by
  rcases s.registerPoint_cases p with h | h <;> simp [h.2]
@[simp] theorem State.registerPoint_fb (s : State) (p : Side) : (s.registerPoint p).fb = s.fb := by
  rcases s.registerPoint_cases p with h | h <;> simp [h.2]
@[simp] theorem State.registerPoint_txlog (s : State) (p : Side) : (s.registerPoint p).txlog = s.txlog := by
  rcases s.registerPoint_cases p with h | h <;> simp [h.2]
@[simp] theorem State.registerPoint_sink (s : State) (p : Side) : (s.registerPoint p).sink = s.sink := by
  rcases s.registerPoint_cases p with h | h <;> simp [h.2]
@[simp] theorem State.registerPoint_resps (s : State) (p : Side) : (s.registerPoint p).resps = s.resps := by
  rcases s.registerPoint_cases p with h | h <;> simp [h.2]
@[simp] theorem State.registerPoint_actions (s : State) (p : Side) : (s.registerPoint p).actions = s.actions := by
  rcases s.registerPoint_cases p with h | h <;> simp [h.2]
@[simp] theorem State.registerPoint_ci (s : State) (p : Side) : (s.registerPoint p).ci = s.ci := by
  rcases s.registerPoint_cases p with h | h <;> simp [h.2]

/-! ### BOUNCE (40 R135) -/

@[simp] theorem State.bounce_cfg (s : State) (p : Side) : (s.bounce p).cfg = s.cfg := by
  unfold State.bounce; split <;> simp
@[simp] theorem State.bounce_pad0 (s : State) (p : Side) : (s.bounce p).pad0 = s.pad0 := by
  unfold State.bounce; split <;> simp
@[simp] theorem State.bounce_pad1 (s : State) (p : Side) : (s.bounce p).pad1 = s.pad1 := by
  unfold State.bounce; split <;> simp
@[simp] theorem State.bounce_score0 (s : State) (p : Side) : (s.bounce p).score0 = s.score0 := by
  unfold State.bounce; split <;> simp
@[simp] theorem State.bounce_score1 (s : State) (p : Side) : (s.bounce p).score1 = s.score1 := by
  unfold State.bounce; split <;> simp
@[simp] theorem State.bounce_tickEn (s : State) (p : Side) : (s.bounce p).tickEn = s.tickEn := by
  unfold State.bounce; split <;> simp
@[simp] theorem State.bounce_fb (s : State) (p : Side) : (s.bounce p).fb = s.fb := by
  unfold State.bounce; split <;> simp
@[simp] theorem State.bounce_txlog (s : State) (p : Side) : (s.bounce p).txlog = s.txlog := by
  unfold State.bounce; split <;> simp
@[simp] theorem State.bounce_sink (s : State) (p : Side) : (s.bounce p).sink = s.sink := by
  unfold State.bounce; split <;> simp
@[simp] theorem State.bounce_resps (s : State) (p : Side) : (s.bounce p).resps = s.resps := by
  unfold State.bounce; split <;> simp
@[simp] theorem State.bounce_actions (s : State) (p : Side) : (s.bounce p).actions = s.actions := by
  unfold State.bounce; split <;> simp
@[simp] theorem State.bounce_ci (s : State) (p : Side) : (s.bounce p).ci = s.ci := by
  unfold State.bounce; split <;> simp

/-! ### WALLS (40 R140) -/

@[simp] theorem State.horizontalExit_cfg (s : State) : (s.horizontalExit).cfg = s.cfg := by
  unfold State.horizontalExit; split <;> simp
@[simp] theorem State.horizontalExit_pad0 (s : State) : (s.horizontalExit).pad0 = s.pad0 := by
  unfold State.horizontalExit; split <;> simp
@[simp] theorem State.horizontalExit_pad1 (s : State) : (s.horizontalExit).pad1 = s.pad1 := by
  unfold State.horizontalExit; split <;> simp
@[simp] theorem State.horizontalExit_tickEn (s : State) : (s.horizontalExit).tickEn = s.tickEn := by
  unfold State.horizontalExit; split <;> simp
@[simp] theorem State.horizontalExit_fb (s : State) : (s.horizontalExit).fb = s.fb := by
  unfold State.horizontalExit; split <;> simp
@[simp] theorem State.horizontalExit_txlog (s : State) : (s.horizontalExit).txlog = s.txlog := by
  unfold State.horizontalExit; split <;> simp
@[simp] theorem State.horizontalExit_sink (s : State) : (s.horizontalExit).sink = s.sink := by
  unfold State.horizontalExit; split <;> simp
@[simp] theorem State.horizontalExit_resps (s : State) : (s.horizontalExit).resps = s.resps := by
  unfold State.horizontalExit; split <;> simp
@[simp] theorem State.horizontalExit_actions (s : State) : (s.horizontalExit).actions = s.actions := by
  unfold State.horizontalExit; split <;> simp
@[simp] theorem State.horizontalExit_ci (s : State) : (s.horizontalExit).ci = s.ci := by
  unfold State.horizontalExit; split <;> simp

@[simp] theorem State.walls_cfg (s : State) : (s.walls).cfg = s.cfg := by
  simp [State.walls]
@[simp] theorem State.walls_pad0 (s : State) : (s.walls).pad0 = s.pad0 := by
  simp [State.walls]
@[simp] theorem State.walls_pad1 (s : State) : (s.walls).pad1 = s.pad1 := by
  simp [State.walls]
@[simp] theorem State.walls_tickEn (s : State) : (s.walls).tickEn = s.tickEn := by
  simp [State.walls]
@[simp] theorem State.walls_fb (s : State) : (s.walls).fb = s.fb := by
  simp [State.walls]
@[simp] theorem State.walls_txlog (s : State) : (s.walls).txlog = s.txlog := by
  simp [State.walls]
@[simp] theorem State.walls_sink (s : State) : (s.walls).sink = s.sink := by
  simp [State.walls]
@[simp] theorem State.walls_resps (s : State) : (s.walls).resps = s.resps := by
  simp [State.walls]
@[simp] theorem State.walls_actions (s : State) : (s.walls).actions = s.actions := by
  simp [State.walls]
@[simp] theorem State.walls_ci (s : State) : (s.walls).ci = s.ci := by
  simp [State.walls]

/-! ### The tick sequence (40 R150) and the tick (60 R293) -/

@[simp] theorem State.tickSequence_cfg (s : State) : (s.tickSequence).cfg = s.cfg := by
  simp [State.tickSequence]
@[simp] theorem State.tickSequence_pad0 (s : State) : (s.tickSequence).pad0 = s.pad0 := by
  simp [State.tickSequence]
@[simp] theorem State.tickSequence_pad1 (s : State) : (s.tickSequence).pad1 = s.pad1 := by
  simp [State.tickSequence]
@[simp] theorem State.tickSequence_tickEn (s : State) : (s.tickSequence).tickEn = s.tickEn := by
  simp [State.tickSequence]
@[simp] theorem State.tickSequence_fb (s : State) : (s.tickSequence).fb = s.fb := by
  simp [State.tickSequence]
@[simp] theorem State.tickSequence_txlog (s : State) : (s.tickSequence).txlog = s.txlog := by
  simp [State.tickSequence]
@[simp] theorem State.tickSequence_sink (s : State) : (s.tickSequence).sink = s.sink := by
  simp [State.tickSequence]
@[simp] theorem State.tickSequence_resps (s : State) : (s.tickSequence).resps = s.resps := by
  simp [State.tickSequence]
@[simp] theorem State.tickSequence_actions (s : State) : (s.tickSequence).actions = s.actions := by
  simp [State.tickSequence]
@[simp] theorem State.tickSequence_ci (s : State) : (s.tickSequence).ci = s.ci := by
  simp [State.tickSequence]

/-- An accepted tick is the tick sequence, a request while ticks are disabled is dropped (60 R293). -/
theorem acceptTick_cases (s : State) :
    (s.tickEn = true ∧ acceptTick s = s.tickSequence) ∨ (s.tickEn = false ∧ acceptTick s = s) := by
  cases h : s.tickEn <;> simp [acceptTick, h]

/-- BOUNCE either hits and replaces the ball, or does nothing (40 R135). -/
theorem State.bounce_cases (s : State) (p : Side) :
    (s.bounces p = true ∧ s.bounce p = s.setBall (bounceBall s.cfg p (s.pad p) s.ball)) ∨
      (s.bounces p = false ∧ s.bounce p = s) := by
  cases h : s.bounces p <;> simp [State.bounce, h]

/-- The hit test, on integers (40 R135). -/
theorem bounceHits_iff (cfg : Config) (p : Side) (pad : Paddle) (b : Ball) :
    bounceHits cfg p pad b = true ↔
      pixelOf b.px = (laneOf cfg p).toNat ∧ 0 ≤ hitOffset pad b ∧ hitOffset pad b < 8 := by
  simp only [bounceHits, hitHeight, Bool.and_eq_true, decide_eq_true_eq, and_assoc]

/-- The three cases of the horizontal part of WALLS (40 R140). -/
theorem exitScorer_cases (px : Int) :
    (px < 0 ∧ exitScorer px = some .right) ∨ (16384 ≤ px ∧ exitScorer px = some .left) ∨
      (0 ≤ px ∧ px < 16384 ∧ exitScorer px = none) := by
  unfold exitScorer xLimit
  split_ifs with h1 h2
  · exact .inl ⟨h1, rfl⟩
  · exact .inr (.inl ⟨h2, rfl⟩)
  · exact .inr (.inr ⟨by omega, by omega, rfl⟩)

/-- WALLS writes the ball of its horizontal part, reflected (40 R140). -/
theorem State.walls_ball (s : State) : s.walls.ball = reflectBall s.horizontalExit.cfg.width s.horizontalExit.ball := rfl

/-- The horizontal part leaves the vertical position alone (40 R140, D17). -/
theorem State.horizontalExit_py (s : State) : s.horizontalExit.ball.py = s.ball.py := by
  rcases exitScorer_cases s.ball.px with h | h | h <;>
    simp [State.horizontalExit, h, serveBall]

/-- The three cases of the vertical part of WALLS (40 R140). -/
theorem reflectBall_cases (w : Nat) (b : Ball) :
    (b.py < 0 ∧ reflectBall w b = { b with py := wrapW w (-b.py), vy := wrapW w (-b.vy) }) ∨
      (8192 ≤ b.py ∧
        reflectBall w b = { b with py := wrapW w (8191 - b.py % 8192), vy := wrapW w (-b.vy) }) ∨
      (0 ≤ b.py ∧ b.py < 8192 ∧ reflectBall w b = b) := by
  unfold reflectBall yLimit
  split_ifs with h1 h2
  · exact .inl ⟨h1, rfl⟩
  · exact .inr (.inl ⟨h2, rfl⟩)
  · exact .inr (.inr ⟨by omega, by omega, rfl⟩)

/-! ### Registers stay in range (10_state.md R20, R24) -/

theorem inWidth_wrapW (w : Nat) (v : Int) : inWidth w (wrapW w v) := wrapW_inWidth w v

theorem inWidth_zero (w : Nat) : inWidth w 0 := by simpa using inWidth_wrapW w 0

/-- STEP writes wrapped values and keeps VX (40 R130). -/
theorem stepBall_inWidth {w : Nat} {b : Ball} (h : b.inWidth w) : (stepBall w b).inWidth w :=
  ⟨inWidth_wrapW .., inWidth_wrapW .., h.2.2.1, inWidth_wrapW .., inWidth_wrapW ..⟩

/-- BOUNCE writes wrapped values and keeps PY (40 R135). -/
theorem bounceBall_inWidth {cfg : Config} {b : Ball} (h : b.inWidth cfg.width) (p : Side) (pad : Paddle) :
    (bounceBall cfg p pad b).inWidth cfg.width := by
  cases p <;>
    exact ⟨inWidth_wrapW .., h.2.1, inWidth_wrapW .., inWidth_wrapW .., inWidth_wrapW ..⟩

/-- A serve writes wrapped values and zeros and keeps PY (40 R140). -/
theorem serveBall_inWidth {cfg : Config} {b : Ball} (h : b.inWidth cfg.width) (scorer : Side) :
    (serveBall cfg scorer b).inWidth cfg.width := by
  cases scorer <;>
    exact ⟨inWidth_wrapW .., h.2.1, inWidth_wrapW .., inWidth_zero _, inWidth_zero _⟩

/-- The reflection writes wrapped values (40 R140). -/
theorem reflectBall_inWidth {w : Nat} {b : Ball} (h : b.inWidth w) : (reflectBall w b).inWidth w := by
  rcases reflectBall_cases w b with e | e | e
  · rw [e.2]; exact ⟨h.1, inWidth_wrapW .., h.2.2.1, inWidth_wrapW .., h.2.2.2.2⟩
  · rw [e.2]; exact ⟨h.1, inWidth_wrapW .., h.2.2.1, inWidth_wrapW .., h.2.2.2.2⟩
  · rw [e.2.2]; exact h

/-- SETY stores a sample of the range and a wrapped velocity (41 R171). -/
theorem samplePaddle_inWidth {w : Nat} {raw : Int} (h : inWidth w raw) (pad : Paddle) :
    (samplePaddle w pad raw).inWidth w := ⟨h, inWidth_wrapW ..⟩

/-! ### The flags stay exclusive (10_state.md R27) -/

theorem State.playing_iff (s : State) : s.playing = true ↔ pend s.score0 = false ∧ pend s.score1 = false := by
  simp [State.playing]

/-! ### Transmission (30_encoding.md R110, 20_memory.md R74) -/

/-- Sending one list after another is sending the joined list. -/
theorem State.transmit_append (s : State) (ts us : List TxByte) :
    s.transmit (ts ++ us) = (s.transmit ts).transmit us := by
  simp [State.transmit, sinkBytes, List.append_assoc]

@[simp] theorem State.transmit_nil (s : State) : s.transmit [] = s := by simp [State.transmit, sinkBytes]

end Sys2Proof.Machine
end

