-- ==== Sys2Proof/Laws/PerInstr.lean ====
section
/-! SUPPORT. A statement made per command: the encoded word carries the command's opcode, and no opcode of a command is
reserved (30_encoding.md R92, R94). -/

namespace Sys2Proof.Laws.EncodedOpcode

open Sys2Proof Sys2Proof.Machine

/-- The word of a command carries its opcode of R92, which is not one of the reserved ones of R94. -/
def Statement (i : Instr) : Prop := opField (encode i) = opcode i ∧ ¬ reservedOpcode (opcode i).toNat

theorem nop : Statement .nop := ⟨by simp [encode], by simp [opcode, reservedOpcode]⟩
theorem tickon : Statement .tickon := ⟨by simp [encode], by simp [opcode, reservedOpcode]⟩
theorem tickoff : Statement .tickoff := ⟨by simp [encode], by simp [opcode, reservedOpcode]⟩
theorem step : Statement .step := ⟨by simp [encode], by simp [opcode, reservedOpcode]⟩
theorem bounce (p : Side) : Statement (.bounce p) := ⟨by simp [encode], by simp [opcode, reservedOpcode]⟩
theorem walls : Statement .walls := ⟨by simp [encode], by simp [opcode, reservedOpcode]⟩
theorem tick : Statement .tick := ⟨by simp [encode], by simp [opcode, reservedOpcode]⟩
theorem serve : Statement .serve := ⟨by simp [encode], by simp [opcode, reservedOpcode]⟩
theorem rdb (r : Byte) : Statement (.rdb r) := ⟨by simp [encode], by simp [opcode, reservedOpcode]⟩
theorem wrb (r : Byte) (imm : Word) : Statement (.wrb r imm) := ⟨by simp [encode], by simp [opcode, reservedOpcode]⟩
theorem sety (p : Side) (imm : Word) : Statement (.sety p imm) := ⟨by simp [encode], by simp [opcode, reservedOpcode]⟩
theorem gety (p : Side) : Statement (.gety p) := ⟨by simp [encode], by simp [opcode, reservedOpcode]⟩
theorem rdp (p : Side) (f : Byte) : Statement (.rdp p f) := ⟨by simp [encode], by simp [opcode, reservedOpcode]⟩
theorem wrp (p : Side) (f : Byte) (imm : Word) : Statement (.wrp p f imm) := ⟨by simp [encode], by simp [opcode, reservedOpcode]⟩
theorem regpt (s : Side) : Statement (.regpt s) := ⟨by simp [encode], by simp [opcode, reservedOpcode]⟩
theorem chkpt : Statement .chkpt := ⟨by simp [encode], by simp [opcode, reservedOpcode]⟩
theorem rdsc (s : Side) : Statement (.rdsc s) := ⟨by simp [encode], by simp [opcode, reservedOpcode]⟩
theorem pxset (x y : Byte) : Statement (.pxset x y) := ⟨by simp [encode], by simp [opcode, reservedOpcode]⟩
theorem pxclr (x y : Byte) : Statement (.pxclr x y) := ⟨by simp [encode], by simp [opcode, reservedOpcode]⟩
theorem pxtog (x y : Byte) : Statement (.pxtog x y) := ⟨by simp [encode], by simp [opcode, reservedOpcode]⟩
theorem lineset (x0 y0 x1 y1 : Byte) : Statement (.lineset x0 y0 x1 y1) := ⟨by simp [encode], by simp [opcode, reservedOpcode]⟩
theorem lineclr (x0 y0 x1 y1 : Byte) : Statement (.lineclr x0 y0 x1 y1) := ⟨by simp [encode], by simp [opcode, reservedOpcode]⟩
theorem linetog (x0 y0 x1 y1 : Byte) : Statement (.linetog x0 y0 x1 y1) := ⟨by simp [encode], by simp [opcode, reservedOpcode]⟩
theorem block (x y v : Byte) : Statement (.block x y v) := ⟨by simp [encode], by simp [opcode, reservedOpcode]⟩
theorem glyph (x y ch : Byte) : Statement (.glyph x y ch) := ⟨by simp [encode], by simp [opcode, reservedOpcode]⟩
theorem fbclr : Statement .fbclr := ⟨by simp [encode], by simp [opcode, reservedOpcode]⟩
theorem rdfb (imm : Word) : Statement (.rdfb imm) := ⟨by simp [encode], by simp [opcode, reservedOpcode]⟩
theorem rfall : Statement .rfall := ⟨by simp [encode], by simp [opcode, reservedOpcode]⟩
theorem rfpx (x y : Byte) : Statement (.rfpx x y) := ⟨by simp [encode], by simp [opcode, reservedOpcode]⟩
theorem rfreg (x0 y0 x1 y1 : Byte) : Statement (.rfreg x0 y0 x1 y1) := ⟨by simp [encode], by simp [opcode, reservedOpcode]⟩
theorem txcmd (v : Byte) : Statement (.txcmd v) := ⟨by simp [encode], by simp [opcode, reservedOpcode]⟩
theorem txdat (v : Byte) : Statement (.txdat v) := ⟨by simp [encode], by simp [opcode, reservedOpcode]⟩
theorem dinit : Statement .dinit := ⟨by simp [encode], by simp [opcode, reservedOpcode]⟩

end Sys2Proof.Laws.EncodedOpcode
end

