-- ==== Sys2Proof/Laws/Ports.lean ====
section
/-! SUPPORT. The small lemmas of the output ports (Machine/Serial.lean, Machine/Ports.lean). -/

namespace Sys2Proof.Machine

@[simp] theorem serialWave_nil : serialWave [] = [] := rfl
@[simp] theorem serialWave_cons (t : TxByte) (ts : List TxByte) :
    serialWave (t :: ts) = byteWave t ++ serialWave ts := rfl

/-! ### The phases of a step, by its action -/

theorem State.phases_idle {s : State} (h : s.actions = []) : s.phases = [.idle] := by simp [State.phases, h]

theorem State.phases_cons {s : State} {a : Action} {rest : List Action} (h : s.actions = a :: rest) :
    s.phases = .idle :: actionPhases (s.take rest) a := by simp [State.phases, h]

/-- An executing instant has the pins of some instant of the channel (R9, R110). -/
theorem mem_executingBytes {ts : List TxByte} {p : Phase} :
    p ∈ executingBytes ts ↔ p = .executing Pins.idle ∨ ∃ pins ∈ serialWave ts, p = .executing pins := by
  simp [executingBytes, eq_comm]

/-- Only an idle machine accepts a command or a tick (20_memory.md R70). -/
theorem Phase.accepts_iff (p : Phase) : p.accepts = true ↔ p = .idle := by cases p <;> simp [Phase.accepts]

/-- A response has the port pulse of its word, and nothing else has (30_encoding.md R93). -/
theorem Phase.respValid_iff (p : Phase) : p.ports.respValid = true ↔ ∃ r, p = .responding r := by
  cases p <;> simp [Phase.ports]

end Sys2Proof.Machine
end

