-- ==== Sys2Proof/Machine/Pseudo.lean ====
section
/-! DEFINITION. The pseudo-instructions and the assembler conventions of 30_encoding.md R96 and R97. They expand to
core commands; the machine knows nothing of them (log 27). -/

namespace Sys2Proof.Machine

/-- The pseudo-instructions (R97). -/
inductive Pseudo where
  | line (x0 y0 x1 y1 : Byte) (mode : PixelMode)
  | writeString (x y : Byte) (codes : List Byte)
  | snapshot
  | setPadRow (p : Side) (row : Int)
  | announce (drawing : List Instr)
  deriving DecidableEq, Repr

/-- An immediate as the assembler takes it: signed or unsigned, reduced modulo 2^16 (R96). -/
def assembleImm (v : Int) : Word := BitVec.ofInt 16 v

/-- One GLYPH per character, five columns apart, stopping where the operand byte cannot hold the column (R97). -/
def expandString (x : Nat) (y : Byte) : List Byte → List Instr
  | [] => []
  | c :: cs => if 255 < x then [] else .glyph (BitVec.ofNat 8 x) y c :: expandString (x + glyphWidth) y cs

/-- The expansion of a pseudo-instruction (R97). -/
def Pseudo.expand : Pseudo → List Instr
  | .line x0 y0 x1 y1 .set => [.lineset x0 y0 x1 y1]
  | .line x0 y0 x1 y1 .clear => [.lineclr x0 y0 x1 y1]
  | .line x0 y0 x1 y1 .toggle => [.linetog x0 y0 x1 y1]
  | .writeString x y codes => expandString x.toNat y codes
  | .snapshot => [.tickoff, .rdb 0, .rdb 1, .tickon]
  | .setPadRow p row => [.sety p (assembleImm (row * 16))]
  | .announce drawing => [.tickoff] ++ drawing ++ [.serve, .tickon]

/-- A paddle or side select as an operand (R91). -/
def Side.index : Side → Int
  | .left => 0
  | .right => 1

/-- A command's mnemonic and its operands in the order of R92; immediates as signed numbers, the index of RDFB
unsigned (R96). -/
def asmParts : Instr → String × List Int
  | .nop => ("NOP", [])
  | .tickon => ("TICKON", [])
  | .tickoff => ("TICKOFF", [])
  | .step => ("STEP", [])
  | .bounce p => ("BOUNCE", [Side.index p])
  | .walls => ("WALLS", [])
  | .tick => ("TICK", [])
  | .serve => ("SERVE", [])
  | .rdb r => ("RDB", [r.toNat])
  | .wrb r imm => ("WRB", [r.toNat, imm.toInt])
  | .sety p imm => ("SETY", [Side.index p, imm.toInt])
  | .gety p => ("GETY", [Side.index p])
  | .rdp p f => ("RDP", [Side.index p, f.toNat])
  | .wrp p f imm => ("WRP", [Side.index p, f.toNat, imm.toInt])
  | .regpt s => ("REGPT", [Side.index s])
  | .chkpt => ("CHKPT", [])
  | .rdsc s => ("RDSC", [Side.index s])
  | .pxset x y => ("PXSET", [x.toNat, y.toNat])
  | .pxclr x y => ("PXCLR", [x.toNat, y.toNat])
  | .pxtog x y => ("PXTOG", [x.toNat, y.toNat])
  | .lineset x0 y0 x1 y1 => ("LINESET", [x0.toNat, y0.toNat, x1.toNat, y1.toNat])
  | .lineclr x0 y0 x1 y1 => ("LINECLR", [x0.toNat, y0.toNat, x1.toNat, y1.toNat])
  | .linetog x0 y0 x1 y1 => ("LINETOG", [x0.toNat, y0.toNat, x1.toNat, y1.toNat])
  | .block x y v => ("BLOCK", [x.toNat, y.toNat, v.toNat])
  | .glyph x y ch => ("GLYPH", [x.toNat, y.toNat, ch.toNat])
  | .fbclr => ("FBCLR", [])
  | .rdfb imm => ("RDFB", [imm.toNat])
  | .rfall => ("RFALL", [])
  | .rfpx x y => ("RFPX", [x.toNat, y.toNat])
  | .rfreg x0 y0 x1 y1 => ("RFREG", [x0.toNat, y0.toNat, x1.toNat, y1.toNat])
  | .txcmd v => ("TXCMD", [v.toNat])
  | .txdat v => ("TXDAT", [v.toNat])
  | .dinit => ("DINIT", [])

/-- A command as the assembler writes it: the mnemonic, a space, the operands separated by commas (R96). -/
def asmText (i : Instr) : String :=
  match asmParts i with
  | (m, []) => m
  | (m, ops) => m ++ " " ++ ", ".intercalate (ops.map toString)

end Sys2Proof.Machine
end

