-- ==== Sys2Proof/Tests/Slice0.lean ====
section
/-! SUPPORT. The model's own tests: well-formedness, decoding of words written out from 30_encoding.md R92, one-step
vectors of 95_test_vectors.md, and for every statement with hypotheses states and operands that meet them. -/

open Sys2Proof Sys2Proof.Machine

namespace Sys2Proof.Tests

/-! ### Helpers -/

/-- The state after a command, where it completes. -/
def after (i : Instr) (s : State) : Option State :=
  match exec i s with
  | .next t => some t
  | .fault _ => none
  | .refused _ => none

/-- The state after a step, where it completes. -/
def stepped (s : State) : Option State :=
  match step s with
  | .next t => some t
  | .fault _ => none
  | .refused _ => none

/-- A ball from signed numbers. -/
def ballAt (px py vx vy spin : Int) : Ball := ⟨px, py, vx, vy, spin⟩

/-- The reset state with a ball. -/
def withBall (px py vx vy spin : Int) : State := { State.reset with ball := ballAt px py vx vy spin }

/-- The reset state of a machine with registers of `w` bits, with a ball. -/
def wideBall (w : Nat) (px py vx vy spin : Int) : State :=
  { State.resetWith { Config.default with width := w } with ball := ballAt px py vx vy spin }

/-- The reset state with scores. -/
def withScores (a b : Byte) : State := { State.reset with score0 := a, score1 := b }

/-- The reset state with framebuffer bytes. -/
def withFb (m : Memory) : State := { State.reset with fb := m }

/-- A display in horizontal mode between two commands. -/
def readyDisplay : Display := { Display.reset with addrMode := 0 }

/-- The reset state with that display and framebuffer bytes. -/
def readyState (m : Memory) : State := { State.reset with fb := m, sink := ⟨.tracked readyDisplay, 0⟩ }

/-- The reset state with actions to come. -/
def withActions (l : List Action) : State := { State.reset with actions := l }

/-- The bytes a state has logged, as (is data, byte). -/
def logged (s : State) : List (Bool × Byte) := s.txlog.map fun t => (decide (t.dc = .data), t.byte)

/-! ### Well-formedness (R95, 93 U4) -/

theorem test_rdb_reserved_index_refused : (Instr.rdb 5).wellFormed = false ∧ (Instr.rdb 255).wellFormed = false := by
  decide
theorem test_wrb_reserved_index_refused : (Instr.wrb 5 0).wellFormed = false := by decide
theorem test_rdp_reserved_field_refused : (Instr.rdp .left 3).wellFormed = false := by decide
theorem test_wrp_reserved_field_refused : (Instr.wrp .right 3 0).wellFormed = false := by decide
theorem test_wellFormed_at_the_bounds :
    (Instr.rdb 4).wellFormed ∧ (Instr.wrb 4 0).wellFormed ∧ (Instr.rdp .left 2).wellFormed ∧
      (Instr.wrp .right 2 0).wellFormed ∧ (Instr.lineset 255 255 255 255).wellFormed := by decide

/-! ### Decoding of words written out from R90 to R92 -/

theorem test_decode_system :
    decode 0x0000000000 = .ok .nop ∧ decode 0x0100000000 = .ok .tickon ∧ decode 0x0200000000 = .ok .tickoff ∧
      decode 0x1804000000 = .ok (.rdb 4) ∧ decode 0x1902FFF400 = .ok (.wrb 2 0xF400) ∧
      decode 0x2801020000 = .ok (.rdp .right 2) ∧ decode 0x29000001E0 = .ok (.wrp .left 0 480) := by decide

theorem test_decode_ball :
    decode 0x1000000000 = .ok .step ∧ decode 0x1101000000 = .ok (.bounce .right) ∧ decode 0x1200000000 = .ok .walls ∧
      decode 0x1300000000 = .ok .tick ∧ decode 0x1400000000 = .ok .serve := by decide

theorem test_decode_paddle :
    decode 0x20010001E0 = .ok (.sety .right 480) ∧ decode 0x2100000000 = .ok (.gety .left) := by decide

theorem test_decode_score :
    decode 0x3001000000 = .ok (.regpt .right) ∧ decode 0x3100000000 = .ok .chkpt ∧
      decode 0x3801000000 = .ok (.rdsc .right) := by decide

theorem test_decode_framebuffer :
    decode 0x40030A0000 = .ok (.pxset 3 10) ∧ decode 0x41030A0000 = .ok (.pxclr 3 10) ∧
      decode 0x427F3F0000 = .ok (.pxtog 127 63) ∧ decode 0x4401020502 = .ok (.lineset 1 2 5 2) ∧
      decode 0x4500007F00 = .ok (.lineclr 0 0 127 0) ∧ decode 0x4600030300 = .ok (.linetog 0 3 3 0) ∧
      decode 0x48030AA500 = .ok (.block 3 10 0xA5) ∧ decode 0x497D004100 = .ok (.glyph 125 0 0x41) ∧
      decode 0x4A00000000 = .ok .fbclr ∧ decode 0x4B00000103 = .ok (.rdfb 259) := by decide

theorem test_decode_transport :
    decode 0x5000000000 = .ok .rfall ∧ decode 0x51030A0000 = .ok (.rfpx 3 10) ∧
      decode 0x52040A030B = .ok (.rfreg 4 10 3 11) ∧ decode 0x53AE000000 = .ok (.txcmd 0xAE) ∧
      decode 0x545A000000 = .ok (.txdat 0x5A) ∧ decode 0x5500000000 = .ok .dinit := by decide

/-- Ignored operand bits (V9; R91). -/
theorem test_decode_ignores_unused_bits :
    decode 0x10FFFFFFFF = .ok .step ∧ decode 0x11FEFFFFFF = .ok (.bounce .left) ∧ decode 0x3003000000 = .ok (.regpt .right) := by
  decide

/-- Reserved opcodes (V9; R94). -/
theorem test_decode_rejects_reserved :
    decode 0x0300000000 = .error (.reservedOpcode 0x03) ∧ decode 0x43030A0000 = .error (.reservedOpcode 0x43) ∧
      decode 0xFFFFFFFFFF = .error (.reservedOpcode 0xFF) := by decide

theorem test_encode_words :
    encode (.sety .right 480) = 0x20010001E0 ∧ encode (.wrb 0 (assembleImm (-48))) = 0x190000FFD0 ∧
      encode (.rfreg 4 10 3 10) = 0x52040A030A ∧ encode .nop = 0 := by decide

/-- A table word whose operand bits are given, and one given as its opcode alone. -/
theorem test_decodeTableWord :
    decodeTableWord 40 0x20010001E0 = some (.sety .right 480) ∧ decodeTableWord 40 0x4700000000 = none := by decide

/-! ### One-step vectors of 95_test_vectors.md -/

theorem test_nop : after .nop State.reset = some (State.reset.respond 0) := by decide
theorem test_tickon_tickoff : ((after .tickon State.reset).bind (after .tickoff)).map (·.tickEn) = some false ∧
    (after .tickon State.reset).map (·.tickEn) = some true := by decide
theorem test_rdb_vx : (after (.rdb 2) (withBall 0 0 (-3072) 0 0)).map (·.resps) = some [0xF400] := by decide
theorem test_wrb_px : (after (.wrb 0 0xFFD0) State.reset).map (·.ball) = some (ballAt (-48) 4096 3072 0 0) := by decide
theorem test_rdp_lane : (after (.rdp .right 2) State.reset).map (·.resps) = some [0x007E] := by decide
theorem test_wrp_vel : (after (.wrp .right 1 0xFFF6) State.reset).map (·.pad1) = some ⟨512, -10⟩ := by decide

/-- V1, row 2. -/
theorem test_step_all_lines :
    (after .step (withBall 8192 4096 3072 1000 4800)).map (·.ball) = some (ballAt 8240 4113 3072 1094 4788) := by decide
/-- V1, row 11. -/
theorem test_step_wraps :
    (after .step (withBall 0 0 1 (-32768) (-32768))).map (·.ball) = some (ballAt 0 498 1 31921 (-32683)) := by decide

/-- W = 32 (D1): no line of the same step wraps, and a product of BOUNCE does not. -/
theorem test_step_and_bounce_at_width_32 :
    (after .step (wideBall 32 32767 0 64 (-32768) (-32768))).map (·.ball) =
        some (ballAt 32768 (-519) 64 (-33274) (-32683)) ∧
      (after (.bounce .left) { wideBall 32 138 3584 (-3072) (-11000) 32000 with pad0 := ⟨480, 500⟩ }).map (·.ball) =
        some (ballAt 266 3584 3072 15174 44000) := by decide
/-- W = 32: a sample of 16 bits is sign-extended, and a response is the low 16 bits (log 29). -/
theorem test_sety_rdb_at_width_32 :
    (after (.sety .left 0x8000) (wideBall 32 0 0 0 0 0)).map (·.pad0) = some ⟨-32768, -8320⟩ ∧
      (after (.rdb 0) (wideBall 32 65539 0 0 0 0)).map (·.resps) = some [3] := by decide

/-- V2, the row in which every intermediate wraps. -/
theorem test_bounce_wraps :
    (after (.bounce .left) { withBall 138 3584 (-3072) (-11000) 32000 with pad0 := ⟨480, 500⟩ }).map (·.ball) =
      some (ballAt 266 3584 3072 31558 (-21536)) := by decide
/-- V2, the right paddle. -/
theorem test_bounce_right :
    (after (.bounce .right) { withBall 16255 4096 3072 (-1000) 100 with pad1 := ⟨512, -10⟩ }).map (·.ball) =
      some (ballAt 16127 4096 (-3072) (-462) 340) := by decide

/-- V3, both axes at once. -/
theorem test_walls_both_axes :
    (after .walls (withBall 20000 9000 9 9 9)).map (fun t => (t.ball, t.score0, t.resps)) =
      some (ballAt 256 7383 3072 0 0, 0x81, [1]) := by decide
/-- V3, a top overshoot of a whole field. -/
theorem test_walls_far_top :
    (after .walls (withBall 8000 (-8192) 100 (-1) 0)).map (·.ball) = some (ballAt 8000 8192 100 1 0) := by decide

/-- V4, tick 331, from the checkpoint of tick 330. -/
theorem test_tick_bounces_right :
    (after .tick (withBall 16096 4096 3072 0 0)).map (·.ball) = some (ballAt 16016 4096 (-3072) 768 0) := by decide
/-- V4, SERVE after a point of RIGHT. -/
theorem test_serve_right :
    (after .serve (withScores 0x02 0x85)).map (fun t => (t.ball, t.score0, t.score1, t.pad0)) =
      some (ballAt 16128 4096 (-3072) 0 0, 0x02, 0x05, ⟨512, 0⟩) := by decide

/-- V5, (381 - 1023) / 4 toward zero. -/
theorem test_sety_toward_zero :
    ((after (.sety .left 1023) State.reset).bind (after (.sety .left 0))).map (·.pad0) = some ⟨0, -160⟩ := by
  decide
/-- V5, a wrapped product. -/
theorem test_sety_wraps :
    (after (.sety .right 0) { State.reset with pad1 := ⟨0, 20000⟩ }).map (·.pad1) = some ⟨0, -1384⟩ := by decide
/-- V5, the shift of a negative position. -/
theorem test_gety_negative :
    (after (.gety .left) { State.reset with pad0 := ⟨-17, 0⟩ }).map (·.resps) = some [0xFFFE] := by decide

/-- V6: the count wraps; a pending point blocks the other side. -/
theorem test_regpt_wrap_and_guard :
    (after (.regpt .left) (withScores 0x7F 0)).map (·.score0) = some 0x80 ∧
      (after (.regpt .right) (withScores 0x81 0)).map (fun t => (t.score0, t.score1)) = some (0x81, 0) := by decide
theorem test_chkpt_rdsc :
    ((after .chkpt (withScores 0x02 0x85)).bind (after (.rdsc .right))).map (·.resps) = some [2, 0x85] := by decide

/-- V7, pixels. -/
theorem test_pxset_pxclr :
    (after (.pxset 3 10) State.reset).map (·.fb) = some [(131, 0x04)] ∧
      (after (.pxclr 3 10) (withFb [(131, 0xFF)])).map (·.fb) = some [(131, 0xFB)] ∧
      (after (.pxset 128 0) State.reset).map (·.fb) = some [] := by decide
theorem test_pxtog_last : (after (.pxtog 127 63) State.reset).map (·.fb) = some [(1023, 0x80)] ∧
    (after (.pxtog 127 63) (withFb [(1023, 0x80)])).map (·.fb) = some [] := by decide
/-- V7, a steep line and one that leaves the field. -/
theorem test_lineset :
    (after (.lineset 0 0 2 5) State.reset).map (·.fb) = some [(0, 0x03), (1, 0x0C), (2, 0x30)] ∧
      (after (.lineset 126 62 130 66) State.reset).map (·.fb) = some [(1022, 0x40), (1023, 0x80)] := by decide
theorem test_lineclr :
    (after (.lineclr 0 0 2 5) (withFb [(0, 0xFF), (1, 0xFF), (2, 0xFF)])).map (·.fb) =
      some [(0, 0xFC), (1, 0xF3), (2, 0xCF)] := by decide
theorem test_linetog :
    (after (.linetog 0 3 3 0) State.reset).map (·.fb) = some [(0, 0x08), (1, 0x04), (2, 0x02), (3, 0x01)] := by decide
/-- V7, a split block over ones, and one at the last page. -/
theorem test_block :
    (after (.block 3 10 0xA5) (withFb [(131, 0xFF), (259, 0xFF)])).map (·.fb) = some [(131, 0x97), (259, 0xFE)] ∧
      (after (.block 3 57 0xFF) State.reset).map (·.fb) = some [(899, 0xFE)] := by decide
/-- V7, the blit of a glyph with an assumed font (7E 11 11 11 7E), at the right edge. -/
theorem test_glyph_blit_at_the_edge :
    (blitColumns 125 0 (fun i => ([0x7E, 0x11, 0x11, 0x11, 0x7E] : List Byte).getD i.val 0) State.reset).fb =
      [(125, 0x7E), (126, 0x11), (127, 0x11)] := by decide
theorem test_fbclr_rdfb :
    (after .fbclr (withFb [(5, 1)])).map (·.fb) = some [] ∧
      (after (.rdfb 131) (withFb [(131, 4)])).map (·.resps) = some [4] ∧
      (after (.rdfb 1024) (withFb [(131, 4)])).map (·.resps) = some [0] := by decide

/-- V8. -/
theorem test_txcmd_txdat :
    ((after (.txcmd 0xAE) State.reset).bind (after (.txdat 0x5A))).map logged =
      some [(false, 0xAE), (true, 0x5A)] := by decide
theorem test_dinit :
    (after .dinit State.reset).map logged =
      some [(false, 0xAE), (false, 0x81), (false, 0x7F), (false, 0xA1), (false, 0xC8), (false, 0xA8), (false, 0x3F),
        (false, 0x20), (false, 0x00), (false, 0x8D), (false, 0x14), (false, 0xAF)] := by decide
theorem test_rfpx :
    (after (.rfpx 3 10) (readyState [(131, 4)])).map logged =
      some [(false, 0x21), (false, 3), (false, 3), (false, 0x22), (false, 1), (false, 1), (true, 4)] ∧
      (after (.rfpx 128 0) (readyState [])).map logged = some [] := by decide
/-- P3, RFREG with the columns swapped, and what GDDRAM then holds. -/
theorem test_rfreg :
    (after (.rfreg 4 10 3 10) (readyState [(132, 4)])).map logged =
      some [(false, 0x21), (false, 3), (false, 4), (false, 0x22), (false, 1), (false, 1), (true, 0), (true, 4)] ∧
      (after (.rfreg 4 10 3 10) (readyState [(132, 4)])).map (·.sink.ctrl) =
        some (.tracked { readyDisplay with
          colStart := 3, colEnd := 4, pageStart := 1, pageEnd := 1, col := 3, page := 1,
          gddram := [(131, 0), (132, 4)] }) := by decide
/-- V8: the modulo inverts the pages, no data byte follows. -/
theorem test_rfreg_inverted_pages :
    (after (.rfreg 0 60 1 70) (readyState [])).map logged =
      some [(false, 0x21), (false, 0), (false, 1), (false, 0x22), (false, 7), (false, 0)] := by decide
theorem test_rfall_sends_1030_bytes : (after .rfall State.reset).map (·.txlog.length) = some 1030 := by
  decide +kernel

/-- P1: a tick request is dropped while ticks are disabled, and moves the ball while they are enabled. -/
theorem test_tick_request :
    (stepped (withActions [.tickRequest])).map (·.ball) = some State.reset.ball ∧
      (stepped { withActions [.tickRequest] with tickEn := true }).map (·.ball) = some (ballAt 304 4096 3072 0 0) := by
  decide
/-- The first instruction after reset, as the host places it. -/
theorem test_first_command :
    (stepped (State.reset.withFetchWord 40 0x1902FFF400)).map (·.ball.vx) = some (-3072) := by decide
/-- R320: the ball is back at its reset value, the actions to come and the display stay. -/
theorem test_reset_action :
    (stepped { readyState [(5, 1)] with actions := [.reset, .tickRequest], ci := 7 }).map
      (fun t => (t.fb, t.sink, t.actions, t.ci)) = some ([], (readyState []).sink, [.tickRequest], 0) := by decide

/-- R97: the expansions. -/
theorem test_pseudo_expansions :
    Pseudo.snapshot.expand = [.tickoff, .rdb 0, .rdb 1, .tickon] ∧
      (Pseudo.setPadRow .right 30).expand = [.sety .right 480] ∧
      (Pseudo.line 0 1 2 3 .toggle).expand = [.linetog 0 1 2 3] ∧
      (Pseudo.writeString 248 0 [0x41, 0x42, 0x43]).expand = [.glyph 248 0 0x41, .glyph 253 0 0x42] := by decide
theorem test_asm_text : asmText (.wrb 2 0xF400) = "WRB 2, -3072" ∧ asmText .step = "STEP" := by decide

/-- R111: 0xA5 as a data byte, most significant bit first. -/
theorem test_serial_samples :
    samples (serialWave [⟨.data, 0xA5⟩]) =
      ([true, false, true, false, false, true, false, true] : List Bool).map fun b => (some true, some b) := by decide
/-- R320: in reset `cmd_ready` is low and `spi_cs_n` high, also when TXDAT is cut off before and after its byte. -/
theorem test_ports_in_reset :
    (withActions [.reset]).phases.map (fun p => (p.ports.cmdReady, p.ports.spi.csN)) =
        [(some true, true), (some false, true)] ∧
      (withActions [.resetDuring 0x545A000000 0]).phases = [.idle, .executing Pins.idle, .inReset] ∧
      (withActions [.resetDuring 0x545A000000 1]).phases.getLast? = some .inReset ∧
      (withActions [.resetDuring 0x545A000000 1]).phases.length = 23 := by decide
/-- R9, R93: GETY executes, then responds; a dropped tick request leaves the machine idle. -/
theorem test_ports_of_a_command :
    (withActions [.command 0x2100000000]).phases = [.idle, .executing Pins.idle, .responding 32] ∧
      (withActions [.tickRequest]).phases = [.idle] := by decide

/-! ### Witnesses: the hypotheses of the statements can be met -/

theorem test_witness_opcodes :
    [(0x00, Instr.nop), (0x01, .tickon), (0x02, .tickoff), (0x10, .step), (0x11, .bounce .left), (0x12, .walls),
      (0x13, .tick), (0x14, .serve), (0x18, .rdb 0), (0x19, .wrb 0 0), (0x20, .sety .left 0), (0x21, .gety .left),
      (0x28, .rdp .left 0), (0x29, .wrp .left 0 0), (0x30, .regpt .left), (0x31, .chkpt), (0x38, .rdsc .left),
      (0x40, .pxset 0 0), (0x41, .pxclr 0 0), (0x42, .pxtog 0 0), (0x44, .lineset 0 0 0 0),
      (0x45, .lineclr 0 0 0 0), (0x46, .linetog 0 0 0 0), (0x48, .block 0 0 0), (0x49, .glyph 0 0 0), (0x4A, .fbclr),
      (0x4B, .rdfb 0), (0x50, .rfall), (0x51, .rfpx 0 0), (0x52, .rfreg 0 0 0 0), (0x53, .txcmd 0), (0x54, .txdat 0),
      (0x55, .dinit)].all (fun p => decide ((encode p.2).extractLsb' 32 8 = BitVec.ofNat 8 p.1)) := by decide

/-- The bounds of the reserved ranges of R94, and their neighbours that are not reserved. -/
theorem test_witness_ReservedOpcodesExecuteAsNop :
    [0x03, 0x0F, 0x15, 0x17, 0x1A, 0x1F, 0x22, 0x27, 0x2A, 0x2F, 0x32, 0x37, 0x39, 0x3F, 0x43, 0x47, 0x4C, 0x4F, 0x56,
      0xFF].all (fun op => decide (reservedOpcode ((BitVec.ofNat 8 op ++ (0 : BitVec 32) : Command).extractLsb' 32 8).toNat)) ∧
    [0x02, 0x10, 0x14, 0x18, 0x19, 0x20, 0x21, 0x28, 0x29, 0x30, 0x31, 0x38, 0x40, 0x42, 0x44, 0x46, 0x48, 0x4B, 0x50,
      0x55].all (fun op => decide (¬ reservedOpcode op)) := by decide

theorem test_witness_StepRunsDecodedCommand :
    (withActions [.command 0x1000000000]).actions = .command 0x1000000000 :: [] ∧ decode 0x1000000000 = .ok .step ∧
      decodeTableWord 40 0x1000000000 = some .step := by decide

theorem test_witness_TickRequestRunsOrIsDropped :
    (withActions [.tickRequest, .reset]).actions = .tickRequest :: [.reset] ∧
      (withActions [.tickRequest, .reset]).tickEn = false ∧
      { withActions [.tickRequest, .reset] with tickEn := true }.tickEn = true := by decide

theorem test_witness_IdleMachineStays : State.reset.actions = [] := by decide
theorem test_witness_ResetStartsANewRun : (withActions [.reset]).actions = .reset :: [] := by decide
/-- A reset during RFPX, after none and after all of its bytes. -/
theorem test_witness_AbandonedCommandReachesDisplayOnly :
    (withActions [.resetDuring 0x51030A0000 0]).actions = .resetDuring 0x51030A0000 0 :: [] ∧
      (withActions [.resetDuring 0x51030A0000 7]).actions = .resetDuring 0x51030A0000 7 :: [] ∧
      (withActions []).cfg.rstResetsDisplay = false := by decide

theorem test_witness_OneResponsePerCommand : Instr.step.responds = false := by decide
theorem test_witness_OnlyTheirWritersChangeState :
    Instr.rfall.movesBall = false ∧ Instr.step.movesPaddle = false ∧ Instr.step.scores = false ∧
      Instr.step ≠ .tickon ∧ Instr.step ≠ .tickoff ∧ Instr.tick.draws = false ∧ Instr.block 0 0 0 ≠ .tickon ∧
      (Instr.block 0 0 0).sends = false := by decide

theorem test_witness_InvariantKeptByStep :
    { readyState [(0, 1), (1023, 255)] with actions := [.command 0x40030A0000], score0 := 0x81, score1 := 0x7F }.Inv := by
  decide
theorem test_witness_InvariantKeptByStep_registers :
    (withBall (-32768) 32767 0 0 0).regsWf ∧ ¬ (withBall 32768 0 0 0 0).regsWf ∧ (wideBall 32 32768 0 0 0 0).regsWf := by
  decide
theorem test_witness_CountsRiseByAtMostOne :
    (withScores 0x7F 0).pendExclusive ∧ (withScores 0x81 0).pendExclusive ∧ pend ((withScores 0x81 0).score .left) = true ∧
      (after .serve (withScores 0x81 0)).map (fun t => pend (t.score .left)) = some false := by decide

/-- The premise on W and the ranges of the registers, at W = 16 with the registers at their bounds, and at W = 32. -/
theorem test_witness_StepIntegratesBall :
    (withBall (-32768) 32767 (-32768) 32767 0).widthOk ∧ (withBall (-32768) 32767 (-32768) 32767 0).regsWf ∧
      (wideBall 32 2147483647 0 0 (-2147483648) 0).widthOk ∧ (wideBall 32 2147483647 0 0 (-2147483648) 0).regsWf := by
  decide

/-- The bounds of the clauses of R131. -/
theorem test_witness_SpinDecaysAndSettles :
    384 ≤ |(withBall 0 0 0 0 384).ball.spin| ∧ |(withBall 0 0 0 0 383).ball.spin| ≤ 383 ∧
      (withBall 0 0 0 0 (-384)).ball.spin < 0 ∧ 0 < (withBall 0 0 0 0 1).ball.spin ∧
      |(withBall 0 0 0 192 47).ball.spin| ≤ 47 ∧ 192 ≤ |(withBall 0 0 0 192 47).ball.vy| ∧
      |(withBall 0 0 0 (-191) (-47)).ball.vy| ≤ 191 ∧ (withBall 0 0 0 (-191) (-47)).ball.vy < 0 ∧
      (withBall 0 0 0 0 32767).ball.spin = 32767 ∧ (withBall 0 0 0 0 32767).regsWf ∧
      (withBall 0 0 0 0 32767).widthOk := by decide

/-- The rows 25 to 34 of V2: offsets -1 and 8 miss, 0 to 7 hit. -/
theorem test_witness_BounceReflectsBall :
    (List.range 10).all (fun k =>
      let s := { withBall 138 (128 * (25 + k) + 5) (-3072) 400 0 with pad0 := ⟨480, 0⟩ }
      let off := s.ball.py.tdiv 128 - ((s.pad .left).pos / 16 - 4)
      decide (s.ball.px.tdiv 128 = ((laneOf s.cfg .left).toNat : Int) ∧ off = (k : Int) - 1 ∧ s.widthOk)) ∧
    (withBall 16255 4096 3072 0 0).ball.px.tdiv 128 = (laneOf State.reset.cfg .right).toNat := by decide
theorem test_witness_BounceDoesNotRetrigger :
    State.reset.widthOk ∧ laneOf State.reset.cfg .left ≠ 0 ∧ laneOf State.reset.cfg .right ≠ 0 := by decide
theorem test_witness_SlowBallCannotSkipLane :
    (withBall 0 0 8191 0 0).ball.inFieldX ∧ |(withBall 0 0 8191 0 0).ball.vx| ≤ 8191 ∧
      (withBall 16383 0 (-8191) 0 0).ball.inFieldX ∧ |(withBall 16383 0 (-8191) 0 0).ball.vx| ≤ 8191 ∧
      (withBall 0 0 8191 0 0).widthOk ∧ (withBall 16383 0 (-8191) 0 0).widthOk ∧
      (1 : BitVec 7) ≠ 0 ∧ (127 : BitVec 7) ≠ 0 := by decide

/-- The exits and walls at their bounds, with no point, a point of LEFT and a point of RIGHT pending. -/
theorem test_witness_WallsResolveExitsAndReflections :
    (withScores 0 0).pendExclusive ∧ (withScores 0x83 2).pendExclusive ∧ (withScores 3 0xFF).pendExclusive ∧
      (withScores 0 0).widthOk ∧ (withBall (-1) 0 0 0 0).widthOk ∧ (withBall (-1) 0 0 0 0).pendExclusive ∧
      (withBall (-1) 0 0 0 0).ball.px < 0 ∧ ¬ (withBall 0 0 0 0 0).ball.px < 0 ∧
      16384 ≤ (withBall 16384 0 0 0 0).ball.px ∧ ¬ 16384 ≤ (withBall 16383 0 0 0 0).ball.px ∧
      (withBall 0 (-1) 0 0 0).ball.py < 0 ∧ 8192 ≤ (withBall 0 8192 0 0 0).ball.py := by decide
theorem test_witness_WallReflectionBringsBallBack :
    [-8191, -1].all (fun y => decide (-8191 ≤ (withBall 0 y 0 (-5) 0).ball.py ∧ (withBall 0 y 0 (-5) 0).ball.py ≤ -1)) ∧
      [8192, 32767].all (fun y => decide (8192 ≤ (withBall 16383 y 0 5 0).ball.py)) ∧
      (withBall 0 (-1) 0 (-5) 0).ball.inFieldX ∧ (withBall 0 (-1) 0 (-5) 0).ball.vy < 0 ∧
      (withBall 0 (-1) 0 (-5) 0).ball.vy ≠ -(2 ^ (State.reset.cfg.width - 1)) ∧ 0 < (withBall 16383 8192 0 5 0).ball.vy ∧
      (withBall 0 (-1) 0 (-5) 0).widthOk ∧ (withBall 0 (-1) 0 (-5) 0).regsWf ∧ (withBall 16383 8192 0 5 0).regsWf ∧
      ¬ (withBall (-1) 0 0 0 0).ball.inFieldX ∧ ¬ (withBall 16384 0 0 0 0).ball.inFieldX := by decide
theorem test_witness_TickIsItsFourCommands :
    { withActions [.tickRequest] with tickEn := true }.actions = .tickRequest :: [] ∧
      { withActions [.tickRequest] with tickEn := true }.tickEn = true := by decide
theorem test_witness_TickKeepsBallInField :
    (withBall 0 0 0 0 0).ball.inFieldY ∧ (withBall 0 8191 0 32767 0).ball.inFieldY ∧ (withBall 0 8191 0 32767 0).regsWf ∧
      0 ≤ State.reset.cfg.serveXLeft ∧ State.reset.cfg.serveXLeft < 16384 ∧ (wideBall 20 0 0 0 (-524288) 0).regsWf ∧
      (wideBall 20 0 0 0 (-524288) 0).cfg.width ≤ 20 ∧ (wideBall 20 0 0 0 (-524288) 0).widthOk := by decide
/-- The bound of `TickKeepsBallInField` is sharp: with W = 21 the fastest ball at the top leaves the field. -/
theorem test_TickKeepsBallInField_needs_width_20 :
    (after .tick (wideBall 20 0 0 0 (-524288) 0)).map (fun t => decide t.ball.inFieldY) = some true ∧
      (after .tick (wideBall 21 0 0 0 (-1048576) 0)).map (fun t => decide t.ball.inFieldY) = some false := by decide
/-- A tick that scores: scenario A of the source (S7). -/
theorem test_witness_TickTouchesBallAndOneScore :
    let s := { withActions [.tickRequest] with tickEn := true, ball := ballAt 0 0 (-3072) 0 0 }
    s.actions = .tickRequest :: [] ∧ s.tickEn = true ∧ s.pendExclusive ∧
      (stepped s).map (fun t => (t.ball, t.score0, t.score1)) = some (ballAt 16128 0 (-3072) 0 0, 0, 0x81) := by decide
theorem test_witness_ServeConsumesPoint :
    (withScores 3 4).pendExclusive ∧ (withScores 0x81 0).pendExclusive ∧ (withScores 2 0x85).pendExclusive ∧
      (withScores 2 0x85).widthOk := by decide
theorem test_witness_SetySmoothsVelocity : State.reset.widthOk ∧ ((-32768 : Word).toInt = -32768) := by decide

/-- The bounds of each clause of R173: at W = 16 a ramp may wrap, at W = 32 its samples fit the immediate. -/
theorem test_witness_SmootherLimits :
    State.reset.widthOk ∧ 3 * State.reset.cfg.width ≤ 48 ∧ rampFits .left 1023 40 State.reset ∧
      (State.reset.pad .left).vel = 0 ∧ (({ State.reset with pad1 := ⟨0, 1023⟩ } : State).pad .right).vel ≤ 1023 ∧
      16 < (({ State.reset with pad1 := ⟨0, 1023⟩ } : State).pad .right).vel ∧
      rampFits .left 1023 31 (wideBall 32 0 0 0 0 0) ∧ ¬ rampFits .left 1023 32 (wideBall 32 0 0 0 0 0) ∧
      rampFits .left (-1023) 32 (wideBall 32 0 0 0 0 0) ∧ rampFits .left 1 32255 (wideBall 32 0 0 0 0 0) := by decide

theorem test_witness_RegptCountsUnlessPending :
    pend (withScores 0x7F 0).score0 = false ∧ pend (withScores 0x7F 0).score1 = false ∧
      (withScores 0x80 0x7F).pendExclusive ∧ pend (withScores 0x80 0x7F).score0 = true ∧
      (withScores 0 0x80).pendExclusive ∧ pend (withScores 0 0x80).score1 = true := by decide
theorem test_witness_ChkptAndRdscReadScores :
    (withScores 0 0).pendExclusive ∧ (withScores 0x80 0).pendExclusive ∧ (withScores 0 0x80).pendExclusive := by decide

/-- The canonical framebuffer that the drawing statements assume, empty and with the first and last bytes listed. -/
theorem test_witness_drawing_statements :
    State.reset.fbWf ∧ (withFb [(0, 1), (131, 4), (1023, 0x80)]).fbWf := by decide
/-- Points and blocks at the bounds of the field, inside and outside. -/
theorem test_witness_drawing_operands :
    blockStores 127 63 1023 ∧ ¬ blockStores 127 63 (1023 + 128) ∧ blockStores 0 1 0 ∧ blockStores 0 1 128 ∧
      ¬ blockStores 0 0 128 ∧ ¬ blockStores 128 0 128 ∧ ¬ blockStores 0 64 1024 := by decide
theorem test_witness_LinePointsClosedForm :
    (0 : Int) ≤ 5 ∧ |(2 : Int) - 0| ≤ 5 - 0 ∧ |(2 : Int) - 0| < |(5 : Int) - 0| ∧
      linePoints 0 0 5 2 = [(0, 0), (1, 0), (2, 1), (3, 1), (4, 2), (5, 2)] ∧ linePoints 7 7 7 7 = [(7, 7)] := by decide

theorem test_witness_refresh_operands :
    (127 : Byte).toNat < 128 ∧ 128 ≤ (128 : Byte).toNat ∧ min (5 : Byte).toNat (20 : Byte).toNat / 8 % 8 ≤
      max (5 : Byte).toNat (20 : Byte).toNat / 8 % 8 := by decide
theorem test_witness_displayReady : (readyState [(131, 4)]).displayReady readyDisplay := by decide
theorem test_witness_DinitSelectsHorizontalMode :
    State.reset.sink.ctrl = .tracked Display.reset ∧ Display.reset.parse = .idle ∧
      State.reset.cfg.opc = Opcodes.standard ∧ State.reset.cfg.dinitSeq = standardInitSequence := by decide

/-- Every state of the parser that R250 distinguishes, and windows of one column or page and of all. -/
theorem test_witness_CommandByteDrivesController :
    Display.reset.parse = .idle ∧
      [Parse.awaitOne .addrMode, .awaitOne .contrast, .awaitOne .muxRatio, .awaitOne .chargePump, .awaitTwo .colAddr,
        .awaitTwo .pageAddr, .awaitSecond .colAddr 8, .awaitSecond .pageAddr 7].all
        (fun p => decide ({ Display.reset with parse := p }.parse = p)) ∧
      (8 : Byte).extractLsb' 0 7 ≤ (8 : Byte).extractLsb' 0 7 ∧ (0 : Byte).extractLsb' 0 7 ≤ (127 : Byte).extractLsb' 0 7 ∧
      (7 : Byte).extractLsb' 0 3 ≤ (7 : Byte).extractLsb' 0 3 := by decide
/-- In the middle of the window, at the end of a line, and at its last byte. -/
theorem test_witness_DataByteWritesAndWalks :
    readyDisplay.parse = .idle ∧ readyDisplay.addrMode = 0 ∧ readyDisplay.colStart ≤ readyDisplay.colEnd ∧
      readyDisplay.pageStart ≤ readyDisplay.pageEnd ∧ readyDisplay.col ≠ readyDisplay.colEnd ∧
      { readyDisplay with col := 127 }.col = readyDisplay.colEnd ∧
      { readyDisplay with col := 127, page := 7 }.page = readyDisplay.pageEnd := by decide
theorem test_witness_UnspecifiedDisplayEventsStayOpen :
    Display.reset.parse = .idle ∧
      ¬(Display.reset.addrMode = 0 ∧ Display.reset.colStart ≤ Display.reset.colEnd ∧
        Display.reset.pageStart ≤ Display.reset.pageEnd) ∧
      (7 : Byte).extractLsb' 0 7 < (8 : Byte).extractLsb' 0 7 ∧ (6 : Byte).extractLsb' 0 3 < (7 : Byte).extractLsb' 0 3 ∧
      { Display.reset with parse := .awaitTwo .colAddr }.parse ≠ .idle ∧
      sinkByte Opcodes.standard ⟨.tracked Display.reset, 0⟩ ⟨.command, 0xE3⟩ = ⟨.lost, 0⟩ := by decide

/-- The value a response can show at the bounds of 16 bits, from each kind of register. -/
theorem test_witness_register_responses :
    inWidth 16 (withBall 32767 (-32768) 0 0 0).ball.px ∧ inWidth 16 (withBall 32767 (-32768) 0 0 0).ball.py ∧
      inWidth 16 (State.reset.pad .left).pos ∧ inWidth 16 ((State.reset.pad .right).pos / 16) ∧
      ¬ inWidth 16 (wideBall 32 32768 0 0 0 0).ball.px := by decide
theorem test_witness_ArithmeticPrimitives :
    0 < 16 ∧ inWidth 16 (-32768) ∧ (-32768 : Int) % 2 ^ 16 = 32768 % 2 ^ 16 ∧ wrapW 16 32768 = -32768 ∧ inWidth 1 0 ∧
      tdiv (-7) 4 = -1 ∧ tdiv (-3) 64 = 0 ∧ asr (-1) 4 = -1 ∧ asr 481 4 = 30 := by decide
theorem test_witness_WideRegistersRespondLowBits :
    (wideBall 32 0 0 0 0 0).widthOk ∧ (4 : Byte).toNat < 5 ∧ 5 ≤ (5 : Byte).toNat ∧ (1 : Byte).toNat < 2 ∧
      3 ≤ (3 : Byte).toNat := by decide

/-- A snapshot with tick requests in both gaps, and with none. -/
theorem test_witness_SnapshotIsOneInstant :
    (withActions [.command 0x0200000000, .tickRequest, .command 0x1800000000, .tickRequest, .tickRequest,
        .command 0x1801000000, .command 0x0100000000, .reset]).actions =
      Action.command 0x0200000000 :: (List.replicate 1 Action.tickRequest ++
        Action.command 0x1800000000 :: (List.replicate 2 Action.tickRequest ++
          Action.command 0x1801000000 :: (List.replicate 0 Action.tickRequest ++ Action.command 0x0100000000 :: [.reset]))) := by
  decide

end Sys2Proof.Tests
end

section
/-! The actions of a run and the shape of a command: what `step` does with each action (00_scope.md R16), and every
command as one effect on the state followed by its response word (30_encoding.md R93). -/

namespace Sys2Proof.Machine

/-! ### One step, by its action -/

theorem step_idle {s : State} (h : s.actions = []) : step s = .next s := by simp [step, h]

theorem step_command {s : State} {w : Command} {rest : List Action} (h : s.actions = .command w :: rest) :
    step s = runCommand w (s.takeCommand rest) := by simp [step, h]

theorem step_tickRequest {s : State} {rest : List Action} (h : s.actions = .tickRequest :: rest) :
    step s = .next (acceptTick (s.take rest)) := by simp [step, h]

theorem step_reset {s : State} {rest : List Action} (h : s.actions = .reset :: rest) :
    step s = .next (s.take rest).afterReset := by simp [step, h]

theorem step_resetDuring {s : State} {w : Command} {sent : Nat} {rest : List Action}
    (h : s.actions = .resetDuring w sent :: rest) : step s = .next ((s.take rest).abandon w sent) := by
  simp [step, h]

/-- A word runs as the command it decodes to, or as NOP (30_encoding.md R94). -/
theorem runCommand_cases (w : Command) (s : State) :
    (∃ i, decode w = .ok i ∧ runCommand w s = exec i s) ∨
      ((∃ op, decode w = .error (.reservedOpcode op)) ∧ runCommand w s = exec .nop s) := by
  unfold runCommand
  cases h : decode w with
  | ok i => exact .inl ⟨i, rfl, rfl⟩
  | error e =>
    obtain ⟨op⟩ := e
    exact .inr ⟨⟨op, rfl⟩, rfl⟩

/-! ### A command is an effect and a response -/

/-- What a command does to the state before it responds; the commands not listed only respond. -/
def effect (s : State) : Instr → State
  | .tickon => { s with tickEn := true }
  | .tickoff => { s with tickEn := false }
  | .step => s.ballStep
  | .bounce p => s.bounce p
  | .walls => s.walls
  | .tick => s.tickSequence
  | .serve => s.serve
  | .wrb r imm => s.setBall (s.ball.setRegister (ballIndex r) (signedImm s.cfg.width imm))
  | .sety p imm => s.setPad p (samplePaddle s.cfg.width (s.pad p) (signedImm s.cfg.width imm))
  | .wrp p f imm => s.setPad p ((s.pad p).setField (padField f) (signedImm s.cfg.width imm))
  | .regpt p => s.registerPoint p
  | .pxset x y => plot .set s (coord x, coord y)
  | .pxclr x y => plot .clear s (coord x, coord y)
  | .pxtog x y => plot .toggle s (coord x, coord y)
  | .lineset x0 y0 x1 y1 => drawLine .set x0 y0 x1 y1 s
  | .lineclr x0 y0 x1 y1 => drawLine .clear x0 y0 x1 y1 s
  | .linetog x0 y0 x1 y1 => drawLine .toggle x0 y0 x1 y1 s
  | .block x y v => blockWrite (coord x) (coord y) v s
  | .glyph x y ch => blitColumns (coord x) (coord y) (Config.font ch) s
  | .fbclr => { s with fb := [] }
  | .rfall => s.transmit (refreshAllBytes s)
  | .rfpx x y => s.transmit (refreshPixelBytes s (coord x) (coord y))
  | .rfreg x0 y0 x1 y1 => s.transmit (refreshRegionBytes s (coord x0) (coord y0) (coord x1) (coord y1))
  | .txcmd v => s.transmit [cmdByte v]
  | .txdat v => s.transmit [dataByte v]
  | .dinit => s.transmit (initBytes s)
  | _ => s

/-- The response word of a command, read from the state before it (30_encoding.md R93). -/
def responseWord (s : State) : Instr → Word
  | .bounce p => outcomeBit (s.bounces p)
  | .walls => outcomeBit (wallBounces s.ball.py)
  | .rdb r => signedWord (s.ball.register (ballIndex r))
  | .gety p => signedWord (padY (s.pad p))
  | .rdp p f => signedWord (s.padRegister p (padField f))
  | .chkpt => pendingBits s.score0 s.score1
  | .rdsc p => zextByte (s.score p)
  | .rdfb imm => if indexImm imm < fbBytes then zextByte (fbRead s (indexImm imm)) else noResult
  | _ => noResult

/-- Every command completes: its effect, then exactly one response word (30_encoding.md R93, 60_exceptions.md R290). -/
theorem exec_eq_effect_respond (i : Instr) (s : State) :
    exec i s = .next ((effect s i).respond (responseWord s i)) := by
  cases i <;> rfl

/-- Settles O7: the empty action list gives the idle step and the one idle phase. -/
theorem idleMachineStays : Obligations.IdleMachineStays :=
  fun _ h => ⟨step_idle h, State.phases_idle h, rfl, rfl⟩

end Sys2Proof.Machine
end

section
/-! What every step keeps (10_state.md R20, R24, R27; 20_memory.md R60, R62): each operation on the state keeps
`State.Inv`, so every command, tick and reset does. -/

namespace Sys2Proof.Machine

/-! ### The parts of the invariant, by name -/

theorem State.Inv.ball {s : State} (h : s.Inv) : s.ball.inWidth s.cfg.width := h.1.1

theorem State.Inv.pad {s : State} (h : s.Inv) (p : Side) : (s.pad p).inWidth s.cfg.width := by
  obtain ⟨⟨-, h0, h1⟩, -⟩ := h
  cases p with
  | left => exact h0
  | right => exact h1

theorem State.Inv.fbWf {s : State} (h : s.Inv) : s.fbWf := h.2.1

theorem State.Inv.sinkWf {s : State} (h : s.Inv) : s.sink.wf = true := h.2.2.1

/-! ### The state updates -/

theorem State.Inv.respond {s : State} (h : s.Inv) (r : Word) : (s.respond r).Inv := h

theorem State.Inv.take {s : State} (h : s.Inv) (rest : List Action) : (s.take rest).Inv := h

theorem State.Inv.takeCommand {s : State} (h : s.Inv) (rest : List Action) : (s.takeCommand rest).Inv := h

theorem State.Inv.setBall {s : State} (h : s.Inv) {b : Ball} (hb : b.inWidth s.cfg.width) : (s.setBall b).Inv := by
  obtain ⟨⟨-, hpads⟩, hrest⟩ := h
  exact ⟨⟨hb, hpads⟩, hrest⟩

theorem State.Inv.setPad {s : State} (h : s.Inv) (p : Side) {v : Paddle} (hv : v.inWidth s.cfg.width) :
    (s.setPad p v).Inv := by
  obtain ⟨⟨hball, h0, h1⟩, hrest⟩ := h
  cases p with
  | left => exact ⟨⟨hball, hv, h1⟩, hrest⟩
  | right => exact ⟨⟨hball, h0, hv⟩, hrest⟩

/-- Drawing keeps the invariant as soon as it keeps the framebuffer canonical (20 R62). -/
theorem State.Inv.of_onlyFb {s t : State} (h : s.Inv) (hst : OnlyFb s t) (ht : t.fbWf) : t.Inv := by
  obtain ⟨hregs, -, hrest⟩ := h
  rw [hst]
  exact ⟨hregs, ht, hrest⟩

/-- Serial bytes reach only TXLOG and the display controller, which keeps GDDRAM canonical (20 R60). -/
theorem State.Inv.transmit {s : State} (h : s.Inv) (ts : List TxByte) : (s.transmit ts).Inv := by
  obtain ⟨hregs, hfb, hsink, hpend⟩ := h
  exact ⟨hregs, hfb, sinkBytes_wf s.cfg.opc hsink ts, hpend⟩

/-! ### The register writes of the host (30_encoding.md R91) -/

theorem signedImm_inWidth (w : Nat) (imm : Word) : inWidth w (signedImm w imm) := inWidth_wrapW w _

theorem Ball.setRegister_inWidth {w : Nat} {b : Ball} (h : b.inWidth w) (r : Nat) {v : Int}
    (hv : Machine.inWidth w v) : (b.setRegister r v).inWidth w := by
  obtain ⟨hpx, hpy, hvx, hvy, hspin⟩ := h
  unfold Ball.setRegister
  split
  · exact ⟨hv, hpy, hvx, hvy, hspin⟩
  · exact ⟨hpx, hv, hvx, hvy, hspin⟩
  · exact ⟨hpx, hpy, hv, hvy, hspin⟩
  · exact ⟨hpx, hpy, hvx, hv, hspin⟩
  · exact ⟨hpx, hpy, hvx, hvy, hv⟩
  · exact ⟨hpx, hpy, hvx, hvy, hspin⟩

theorem Paddle.setField_inWidth {w : Nat} {pad : Paddle} (h : pad.inWidth w) (f : Nat) {v : Int}
    (hv : Machine.inWidth w v) : (pad.setField f v).inWidth w := by
  obtain ⟨hpos, hvel⟩ := h
  unfold Paddle.setField
  split
  · exact ⟨hv, hvel⟩
  · exact ⟨hpos, hv⟩
  · exact ⟨hpos, hvel⟩

/-! ### The ball engine (40_ball_physics.md) and the score (42_score.md) -/

/-- A point is counted only when none is pending, so the other flag stays clear (10 R27, 42 R185). -/
theorem State.Inv.registerPoint {s : State} (h : s.Inv) (p : Side) : (s.registerPoint p).Inv := by
  rcases s.registerPoint_cases p with ⟨hplay, e⟩ | ⟨-, e⟩ <;> rw [e]
  · obtain ⟨hregs, hfb, hsink, -⟩ := h
    obtain ⟨h0, h1⟩ := s.playing_iff.1 hplay
    cases p with
    | left => exact ⟨hregs, hfb, hsink, fun both => by simp [h1] at both⟩
    | right => exact ⟨hregs, hfb, hsink, fun both => by simp [h0] at both⟩
  · exact h

theorem State.Inv.ballStep {s : State} (h : s.Inv) : s.ballStep.Inv := h.setBall (stepBall_inWidth h.ball)

theorem State.Inv.bounce {s : State} (h : s.Inv) (p : Side) : (s.bounce p).Inv := by
  rcases s.bounce_cases p with ⟨-, e⟩ | ⟨-, e⟩ <;> rw [e]
  · exact h.setBall (bounceBall_inWidth h.ball p _)
  · exact h

theorem State.Inv.horizontalExit {s : State} (h : s.Inv) : s.horizontalExit.Inv := by
  unfold State.horizontalExit
  split
  · next p _ => exact (h.setBall (serveBall_inWidth h.ball p)).registerPoint p
  · exact h

theorem State.Inv.walls {s : State} (h : s.Inv) : s.walls.Inv :=
  h.horizontalExit.setBall (reflectBall_inWidth h.horizontalExit.ball)

theorem State.Inv.tickSequence {s : State} (h : s.Inv) : s.tickSequence.Inv :=
  ((h.ballStep.bounce .left).bounce .right).walls

theorem State.Inv.acceptTick {s : State} (h : s.Inv) : (acceptTick s).Inv := by
  rcases acceptTick_cases s with ⟨-, e⟩ | ⟨-, e⟩ <;> rw [e]
  · exact h.tickSequence
  · exact h

theorem initPaddle_inWidth (cfg : Config) :
    (Paddle.mk (wrapW cfg.width cfg.paddleInitPos) 0).inWidth cfg.width :=
  ⟨inWidth_wrapW .., inWidth_zero _⟩

/-- SERVE writes wrapped values and clears both flags (40 R155). -/
theorem State.Inv.serve {s : State} (h : s.Inv) : s.serve.Inv := by
  obtain ⟨⟨hball, -⟩, hfb, hsink, -⟩ := h
  obtain ⟨hpx, -, hvx, hvy, hspin⟩ := serveBall_inWidth hball s.server
  have hpend : s.serve.pendExclusive := by simp [clearPend_bits]
  exact ⟨⟨⟨hpx, inWidth_wrapW .., hvx, hvy, hspin⟩, initPaddle_inWidth _, initPaddle_inWidth _⟩, hfb, hsink, hpend⟩

/-! ### Commands -/

theorem State.Inv.drawLine {s : State} (h : s.Inv) (m : PixelMode) (x0 y0 x1 y1 : Byte) :
    (drawLine m x0 y0 x1 y1 s).Inv :=
  h.of_onlyFb (onlyFb_drawLine m x0 y0 x1 y1 s) (fbWf_drawLine m x0 y0 x1 y1 h.fbWf)

theorem State.Inv.effect {s : State} (h : s.Inv) (i : Instr) : (effect s i).Inv := by
  cases i with
  | nop | rdb | gety | rdp | chkpt | rdsc | rdfb | tickon | tickoff => exact h
  | step => exact h.ballStep
  | bounce p => exact h.bounce p
  | walls => exact h.walls
  | tick => exact h.tickSequence
  | serve => exact h.serve
  | wrb r imm => exact h.setBall (Ball.setRegister_inWidth h.ball _ (signedImm_inWidth _ imm))
  | sety p imm => exact h.setPad p (samplePaddle_inWidth (signedImm_inWidth _ imm) _)
  | wrp p f imm => exact h.setPad p (Paddle.setField_inWidth (h.pad p) _ (signedImm_inWidth _ imm))
  | regpt p => exact h.registerPoint p
  | pxset x y => exact h.of_onlyFb (onlyFb_plot .set s _) (fbWf_plot .set h.fbWf _)
  | pxclr x y => exact h.of_onlyFb (onlyFb_plot .clear s _) (fbWf_plot .clear h.fbWf _)
  | pxtog x y => exact h.of_onlyFb (onlyFb_plot .toggle s _) (fbWf_plot .toggle h.fbWf _)
  | lineset x0 y0 x1 y1 => exact h.drawLine .set x0 y0 x1 y1
  | lineclr x0 y0 x1 y1 => exact h.drawLine .clear x0 y0 x1 y1
  | linetog x0 y0 x1 y1 => exact h.drawLine .toggle x0 y0 x1 y1
  | block x y v => exact h.of_onlyFb (onlyFb_blockWrite _ _ v s) (fbWf_blockWrite _ _ v h.fbWf)
  | glyph x y ch => exact h.of_onlyFb (onlyFb_blitColumns _ _ _ s) (fbWf_blitColumns _ _ _ h.fbWf)
  | fbclr => exact h.of_onlyFb rfl (Memory.wf_nil _ _)
  | rfall | rfpx | rfreg | txcmd | txdat | dinit => exact h.transmit _

theorem exec_keeps_inv (i : Instr) {s : State} (h : s.Inv) : ∃ t, exec i s = .next t ∧ t.Inv :=
  ⟨_, exec_eq_effect_respond i s, (h.effect i).respond _⟩

theorem runCommand_keeps_inv (w : Command) {s : State} (h : s.Inv) : ∃ t, runCommand w s = .next t ∧ t.Inv := by
  rcases runCommand_cases w s with ⟨i, -, e⟩ | ⟨-, e⟩ <;> rw [e]
  · exact exec_keeps_inv i h
  · exact exec_keeps_inv .nop h

/-! ### Resets (70_reset_and_hazards.md R320) -/

theorem resetWith_inv (cfg : Config) : (State.resetWith cfg).Inv :=
  ⟨⟨⟨inWidth_wrapW .., inWidth_wrapW .., inWidth_wrapW .., inWidth_zero _, inWidth_zero _⟩, initPaddle_inWidth cfg,
    initPaddle_inWidth cfg⟩, Memory.wf_nil _ _, Memory.wf_nil _ _, by simp [State.resetWith, pend]⟩

/-- `rst` needs of the state before it only that GDDRAM is canonical, since the display may keep it (log 14). -/
theorem afterReset_inv (s : State) (hsink : s.sink.wf = true) : s.afterReset.Inv := by
  obtain ⟨hregs, hfb, -, hpend⟩ := resetWith_inv s.cfg
  have hafter : (sinkAfterReset s).wf = true := by
    unfold sinkAfterReset
    split
    · exact Memory.wf_nil _ _
    · exact hsink
  exact ⟨hregs, hfb, hafter, hpend⟩

theorem abandon_inv (s : State) (hsink : s.sink.wf = true) (w : Command) (sent : Nat) : (s.abandon w sent).Inv :=
  afterReset_inv _ (sinkBytes_wf s.cfg.opc hsink _)

/-! ### Steps -/

/-- Settles O17: the action in front is taken, and the command, tick or reset it stands for keeps the invariant. -/
theorem invariantKeptByStep : Obligations.InvariantKeptByStep := by
  intro s h
  match ha : s.actions with
  | [] => exact ⟨s, step_idle ha, h⟩
  | .command w :: rest =>
    rw [step_command ha]
    exact runCommand_keeps_inv w (h.takeCommand rest)
  | .tickRequest :: rest => exact ⟨_, step_tickRequest ha, (h.take rest).acceptTick⟩
  | .reset :: rest => exact ⟨_, step_reset ha, afterReset_inv _ (h.take rest).sinkWf⟩
  | .resetDuring w sent :: rest => exact ⟨_, step_resetDuring ha, abandon_inv _ (h.take rest).sinkWf w sent⟩

end Sys2Proof.Machine
end

section
/-! PONGCORE is blind to the display (00_scope.md R9, R16): every operation on the state commutes with an exchange of
the display, and only serial transmission passes anything to it. -/

namespace Sys2Proof.Machine

/-- `s` with the display `k` on its serial channel. -/
def State.withSink (s : State) (k : Sink) : State := { s with sink := k }

/-! ### Each operation, with another display -/

theorem respond_withSink (s : State) (k : Sink) (r : Word) : (s.withSink k).respond r = (s.respond r).withSink k := rfl

theorem transmit_withSink (s : State) (k : Sink) (ts : List TxByte) :
    (s.withSink k).transmit ts = (s.transmit ts).withSink (sinkBytes s.cfg.opc k ts) := rfl

theorem setScore_withSink (s : State) (k : Sink) (p : Side) (v : Byte) :
    (s.withSink k).setScore p v = (s.setScore p v).withSink k := by cases p <;> rfl

theorem pad_withSink (s : State) (k : Sink) (p : Side) : (s.withSink k).pad p = s.pad p := by cases p <;> rfl

theorem score_withSink (s : State) (k : Sink) (p : Side) : (s.withSink k).score p = s.score p := by cases p <;> rfl

theorem registerPoint_withSink (s : State) (k : Sink) (p : Side) :
    (s.withSink k).registerPoint p = (s.registerPoint p).withSink k := by
  have hplay : (s.withSink k).playing = s.playing := rfl
  unfold State.registerPoint
  rw [hplay, setScore_withSink, score_withSink]
  split <;> rfl

theorem bounces_withSink (s : State) (k : Sink) (p : Side) : (s.withSink k).bounces p = s.bounces p := by
  cases p <;> rfl

theorem bounce_withSink (s : State) (k : Sink) (p : Side) : (s.withSink k).bounce p = (s.bounce p).withSink k := by
  unfold State.bounce
  rw [bounces_withSink, pad_withSink]
  split <;> rfl

theorem horizontalExit_withSink (s : State) (k : Sink) :
    (s.withSink k).horizontalExit = s.horizontalExit.withSink k := by
  have hball : (s.withSink k).ball = s.ball := rfl
  unfold State.horizontalExit
  rw [hball]
  split
  · next p _ => exact registerPoint_withSink (s.setBall (serveBall s.cfg p s.ball)) k p
  · rfl

theorem walls_withSink (s : State) (k : Sink) : (s.withSink k).walls = s.walls.withSink k := by
  unfold State.walls
  rw [horizontalExit_withSink]
  rfl

theorem tickSequence_withSink (s : State) (k : Sink) : (s.withSink k).tickSequence = s.tickSequence.withSink k := by
  have hstep : (s.withSink k).ballStep = s.ballStep.withSink k := rfl
  simp only [State.tickSequence, hstep, bounce_withSink, walls_withSink]

theorem plot_withSink (m : PixelMode) (s : State) (k : Sink) (pt : Int × Int) :
    plot m (s.withSink k) pt = (plot m s pt).withSink k := by
  unfold plot
  split <;> rfl

theorem drawLine_withSink (m : PixelMode) (x0 y0 x1 y1 : Byte) (s : State) (k : Sink) :
    drawLine m x0 y0 x1 y1 (s.withSink k) = (drawLine m x0 y0 x1 y1 s).withSink k :=
  List.foldl_hom (State.withSink · k) fun u pt => plot_withSink m u k pt

theorem blockWrite_withSink (x y : Nat) (v : Byte) (s : State) (k : Sink) :
    blockWrite x y v (s.withSink k) = (blockWrite x y v s).withSink k := by
  simp only [blockWrite]
  split_ifs <;> rfl

theorem blitColumns_withSink (x y : Nat) (cols : Fin 5 → Byte) (s : State) (k : Sink) :
    blitColumns x y cols (s.withSink k) = (blitColumns x y cols s).withSink k :=
  List.foldl_hom (State.withSink · k) fun u i => blockWrite_withSink (x + i.val) y (cols i) u k

/-! ### Each command -/

theorem responseWord_withSink (i : Instr) (s : State) (k : Sink) :
    responseWord (s.withSink k) i = responseWord s i := by
  cases i with
  | bounce p => exact congrArg outcomeBit (bounces_withSink s k p)
  | gety p => exact congrArg (fun pad => signedWord (padY pad)) (pad_withSink s k p)
  | rdp p f => cases p <;> rfl
  | rdsc p => exact congrArg zextByte (score_withSink s k p)
  | _ => rfl

/-- A command's effect on everything but the display is the same for every display. -/
theorem effect_withSink (i : Instr) (s : State) (k : Sink) :
    ∃ k', effect (s.withSink k) i = (effect s i).withSink k' := by
  cases i with
  | nop | rdb | gety | rdp | chkpt | rdsc | rdfb | tickon | tickoff | step | serve | wrb | fbclr =>
    exact ⟨k, rfl⟩
  | bounce p => exact ⟨k, bounce_withSink s k p⟩
  | walls => exact ⟨k, walls_withSink s k⟩
  | tick => exact ⟨k, tickSequence_withSink s k⟩
  | sety p | wrp p => exact ⟨k, by cases p <;> rfl⟩
  | regpt p => exact ⟨k, registerPoint_withSink s k p⟩
  | pxset | pxclr | pxtog => exact ⟨k, plot_withSink _ s k _⟩
  | lineset | lineclr | linetog => exact ⟨k, drawLine_withSink _ _ _ _ _ s k⟩
  | block x y v => exact ⟨k, blockWrite_withSink _ _ v s k⟩
  | glyph x y ch => exact ⟨k, blitColumns_withSink _ _ _ s k⟩
  | rfall | rfpx | rfreg | txcmd | txdat | dinit => exact ⟨_, transmit_withSink s k _⟩

/-- Settles O14: effect and response of a command do not see the display. -/
theorem pongcoreIgnoresTheDisplay : Obligations.PongcoreIgnoresTheDisplay := by
  intro i s k
  obtain ⟨k', he⟩ := effect_withSink i s k
  refine ⟨_, k', exec_eq_effect_respond i s, ?_⟩
  calc exec i (s.withSink k)
      = .next ((effect (s.withSink k) i).respond (responseWord (s.withSink k) i)) := exec_eq_effect_respond ..
    _ = .next (((effect s i).respond (responseWord s i)).withSink k') := by
      rw [he, responseWord_withSink, respond_withSink]

end Sys2Proof.Machine
end

section
/-! The arithmetic primitives of 00_scope.md R11, characterised for every register width. -/

namespace Sys2Proof.Machine

/-- `wrapW` sees only the residue modulo `2^w`. -/
theorem wrapW_congr {w : Nat} {u v : Int} (h : u % 2 ^ w = v % 2 ^ w) : wrapW w u = wrapW w v := by
  have hpow : ((2 ^ w : Nat) : Int) = 2 ^ w := by push_cast; rfl
  rw [wrapW, wrapW, Int.bmod_def, Int.bmod_def, hpow, h]

/-- `wrapW` is the only integer in range with the residue of its argument. -/
theorem eq_wrapW_of_inWidth {w : Nat} (hw : 0 < w) {r v : Int} (hr : inWidth w r) (h : r % 2 ^ w = v % 2 ^ w) :
    r = wrapW w v := by
  rw [← wrapW_congr h, wrapW_of_inWidth hw hr.1 hr.2]

theorem tdiv_neg_left (a b : Int) : tdiv (-a) b = -tdiv a b := Int.neg_tdiv a b

/-- `asr` is the quotient of the division by `2^n` with a remainder from 0 to `2^n - 1`. -/
theorem asr_bounds (v : Int) (n : Nat) : 2 ^ n * asr v n ≤ v ∧ v < 2 ^ n * asr v n + 2 ^ n := by
  have hpos : (0 : Int) < 2 ^ n := by positivity
  have hfloor : asr v n = v / 2 ^ n := Int.fdiv_eq_ediv_of_nonneg v hpos.le
  rw [hfloor]
  exact ⟨Int.mul_ediv_self_le hpos.ne', Int.lt_mul_ediv_self_add hpos⟩

/-- Settles O59, one clause per primitive. -/
theorem arithmeticPrimitives : Obligations.ArithmeticPrimitives := by
  refine ⟨fun w v hw => ⟨inWidth_wrapW w v, wrapW_emod w v, fun r => eq_wrapW_of_inWidth hw⟩,
    fun a b hb => ⟨fun ha => ?_, tdiv_neg_left a b⟩, asr_bounds⟩
  obtain ⟨-, hle, hlt⟩ := (tdiv_bounds a hb).1 ha
  exact ⟨hle, hlt⟩

end Sys2Proof.Machine
end

section
/-! Who writes what: the frame of every command (10_state.md R20, R24, R26, R28, R30, R35), read off the operation its
effect is made of. -/

namespace Sys2Proof.Machine

/-- From `s` to `t` each piece of state has changed only if command `i` is one of its listed writers, and no parameter
has changed (00_scope.md R8). -/
structure OnlyWriters (i : Instr) (s t : State) : Prop where
  cfg : t.cfg = s.cfg
  ball : i.movesBall = false → t.ball = s.ball
  pads : i.movesPaddle = false → t.pad0 = s.pad0 ∧ t.pad1 = s.pad1
  scores : i.scores = false → t.score0 = s.score0 ∧ t.score1 = s.score1
  tickEn : i ≠ .tickon → i ≠ .tickoff → t.tickEn = s.tickEn
  fb : i.draws = false → t.fb = s.fb
  serial : i.sends = false → t.txlog = s.txlog ∧ t.sink = s.sink

/-! ### One operation, its writers -/

theorem OnlyWriters.refl (i : Instr) (s : State) : OnlyWriters i s s :=
  ⟨rfl, fun _ => rfl, fun _ => ⟨rfl, rfl⟩, fun _ => ⟨rfl, rfl⟩, fun _ _ => rfl, fun _ => rfl, fun _ => ⟨rfl, rfl⟩⟩

theorem OnlyWriters.of_setBall {i : Instr} (hi : i.movesBall = true) (s : State) (b : Ball) :
    OnlyWriters i s (s.setBall b) :=
  { OnlyWriters.refl i s with ball := fun hn => by simp [hi] at hn }

theorem OnlyWriters.of_setPad {i : Instr} (hi : i.movesPaddle = true) (s : State) (p : Side) (v : Paddle) :
    OnlyWriters i s (s.setPad p v) := by
  cases p <;> exact { OnlyWriters.refl i s with pads := fun hn => by simp [hi] at hn }

theorem OnlyWriters.of_setScore {i : Instr} (hi : i.scores = true) (s : State) (p : Side) (v : Byte) :
    OnlyWriters i s (s.setScore p v) := by
  cases p <;> exact { OnlyWriters.refl i s with scores := fun hn => by simp [hi] at hn }

theorem OnlyWriters.of_onlyFb {i : Instr} (hi : i.draws = true) {s t : State} (h : OnlyFb s t) : OnlyWriters i s t := by
  rw [h]
  exact { OnlyWriters.refl i s with fb := fun hn => by simp [hi] at hn }

theorem OnlyWriters.of_transmit {i : Instr} (hi : i.sends = true) (s : State) (ts : List TxByte) :
    OnlyWriters i s (s.transmit ts) :=
  { OnlyWriters.refl i s with serial := fun hn => by simp [hi] at hn }

theorem OnlyWriters.trans {i : Instr} {s t u : State} (h : OnlyWriters i s t) (k : OnlyWriters i t u) :
    OnlyWriters i s u where
  cfg := k.cfg.trans h.cfg
  ball hn := (k.ball hn).trans (h.ball hn)
  pads hn := ⟨(k.pads hn).1.trans (h.pads hn).1, (k.pads hn).2.trans (h.pads hn).2⟩
  scores hn := ⟨(k.scores hn).1.trans (h.scores hn).1, (k.scores hn).2.trans (h.scores hn).2⟩
  tickEn hon hoff := (k.tickEn hon hoff).trans (h.tickEn hon hoff)
  fb hn := (k.fb hn).trans (h.fb hn)
  serial hn := ⟨(k.serial hn).1.trans (h.serial hn).1, (k.serial hn).2.trans (h.serial hn).2⟩

/-! ### The composed operations -/

theorem OnlyWriters.of_bounce {i : Instr} (hi : i.movesBall = true) (s : State) (p : Side) :
    OnlyWriters i s (s.bounce p) := by
  rcases s.bounce_cases p with ⟨-, e⟩ | ⟨-, e⟩ <;> rw [e]
  · exact .of_setBall hi s _
  · exact .refl i s

theorem OnlyWriters.of_registerPoint {i : Instr} (hi : i.scores = true) (s : State) (p : Side) :
    OnlyWriters i s (s.registerPoint p) := by
  rcases s.registerPoint_cases p with ⟨-, e⟩ | ⟨-, e⟩ <;> rw [e]
  · exact .of_setScore hi s p _
  · exact .refl i s

theorem OnlyWriters.of_horizontalExit {i : Instr} (hball : i.movesBall = true) (hscore : i.scores = true) (s : State) :
    OnlyWriters i s s.horizontalExit := by
  unfold State.horizontalExit
  split
  · next p _ => exact (OnlyWriters.of_setBall hball s _).trans (.of_registerPoint hscore _ p)
  · exact .refl i s

theorem OnlyWriters.of_walls {i : Instr} (hball : i.movesBall = true) (hscore : i.scores = true) (s : State) :
    OnlyWriters i s s.walls :=
  (OnlyWriters.of_horizontalExit hball hscore s).trans (.of_setBall hball _ _)

theorem OnlyWriters.of_tickSequence {i : Instr} (hball : i.movesBall = true) (hscore : i.scores = true) (s : State) :
    OnlyWriters i s s.tickSequence :=
  (((OnlyWriters.of_setBall hball s _).trans (.of_bounce hball _ .left)).trans (.of_bounce hball _ .right)).trans
    (.of_walls hball hscore _)

/-! ### Each command -/

theorem effect_onlyWriters (i : Instr) (s : State) : OnlyWriters i s (effect s i) := by
  cases i with
  | nop | rdb | gety | rdp | chkpt | rdsc | rdfb => exact .refl _ s
  | tickon => exact { OnlyWriters.refl _ s with tickEn := fun hon _ => absurd rfl hon }
  | tickoff => exact { OnlyWriters.refl _ s with tickEn := fun _ hoff => absurd rfl hoff }
  | step | wrb => exact .of_setBall rfl s _
  | bounce p => exact .of_bounce rfl s p
  | walls => exact .of_walls rfl rfl s
  | tick => exact .of_tickSequence rfl rfl s
  | serve => exact { OnlyWriters.refl _ s with ball := nofun, pads := nofun, scores := nofun }
  | sety p | wrp p => exact .of_setPad rfl s p _
  | regpt p => exact .of_registerPoint rfl s p
  | pxset | pxclr | pxtog => exact .of_onlyFb rfl (onlyFb_plot _ s _)
  | lineset | lineclr | linetog => exact .of_onlyFb rfl (onlyFb_drawLine _ _ _ _ _ s)
  | block x y v => exact .of_onlyFb rfl (onlyFb_blockWrite _ _ v s)
  | glyph x y ch => exact .of_onlyFb rfl (onlyFb_blitColumns _ _ _ s)
  | fbclr => exact .of_onlyFb rfl rfl
  | rfall | rfpx | rfreg | txcmd | txdat | dinit => exact .of_transmit rfl s _

/-- Settles O15: the response that follows the effect writes none of the listed pieces. -/
theorem onlyTheirWritersChangeState : Obligations.OnlyTheirWritersChangeState := by
  intro i s
  obtain ⟨-, hball, hpads, hscores, htickEn, hfb, hserial⟩ := effect_onlyWriters i s
  exact ⟨_, exec_eq_effect_respond i s, hball, hpads, hscores, htickEn, hfb, hserial⟩

end Sys2Proof.Machine
end

section
/-! Commands are blind to the run (10_state.md R33, 30_encoding.md R93): every operation on the state commutes with an
exchange of the earlier responses, the actions to come and the command index. -/

namespace Sys2Proof.Machine

/-- `s` with another run around it: the responses given, the actions to come and the command index. -/
def State.withRun (s : State) (resps : List Word) (actions : List Action) (ci : Nat) : State :=
  { s with resps := resps, actions := actions, ci := ci }

section
variable (s : State) (resps : List Word) (actions : List Action) (ci : Nat)

/-! ### Each operation, in another run -/

theorem respond_withRun (r : Word) :
    (s.withRun resps actions ci).respond r = (s.respond r).withRun (resps ++ [r]) actions ci := rfl

theorem pad_withRun (p : Side) : (s.withRun resps actions ci).pad p = s.pad p := by cases p <;> rfl

theorem score_withRun (p : Side) : (s.withRun resps actions ci).score p = s.score p := by cases p <;> rfl

theorem setScore_withRun (p : Side) (v : Byte) :
    (s.withRun resps actions ci).setScore p v = (s.setScore p v).withRun resps actions ci := by cases p <;> rfl

theorem registerPoint_withRun (p : Side) :
    (s.withRun resps actions ci).registerPoint p = (s.registerPoint p).withRun resps actions ci := by
  have hplay : (s.withRun resps actions ci).playing = s.playing := rfl
  unfold State.registerPoint
  rw [hplay, setScore_withRun, score_withRun]
  split <;> rfl

theorem bounces_withRun (p : Side) : (s.withRun resps actions ci).bounces p = s.bounces p := by cases p <;> rfl

theorem bounce_withRun (p : Side) :
    (s.withRun resps actions ci).bounce p = (s.bounce p).withRun resps actions ci := by
  unfold State.bounce
  rw [bounces_withRun, pad_withRun]
  split <;> rfl

theorem horizontalExit_withRun :
    (s.withRun resps actions ci).horizontalExit = s.horizontalExit.withRun resps actions ci := by
  have hball : (s.withRun resps actions ci).ball = s.ball := rfl
  unfold State.horizontalExit
  rw [hball]
  split
  · next p _ => exact registerPoint_withRun (s.setBall (serveBall s.cfg p s.ball)) resps actions ci p
  · rfl

theorem walls_withRun : (s.withRun resps actions ci).walls = s.walls.withRun resps actions ci := by
  unfold State.walls
  rw [horizontalExit_withRun]
  rfl

theorem tickSequence_withRun :
    (s.withRun resps actions ci).tickSequence = s.tickSequence.withRun resps actions ci := by
  have hstep : (s.withRun resps actions ci).ballStep = s.ballStep.withRun resps actions ci := rfl
  simp only [State.tickSequence, hstep, bounce_withRun, walls_withRun]

theorem transmit_withRun (ts : List TxByte) :
    (s.withRun resps actions ci).transmit ts = (s.transmit ts).withRun resps actions ci := rfl

theorem plot_withRun (m : PixelMode) (pt : Int × Int) :
    plot m (s.withRun resps actions ci) pt = (plot m s pt).withRun resps actions ci := by
  unfold plot
  split <;> rfl

theorem drawLine_withRun (m : PixelMode) (x0 y0 x1 y1 : Byte) :
    drawLine m x0 y0 x1 y1 (s.withRun resps actions ci) = (drawLine m x0 y0 x1 y1 s).withRun resps actions ci :=
  List.foldl_hom (State.withRun · resps actions ci) fun u pt => plot_withRun u resps actions ci m pt

theorem blockWrite_withRun (x y : Nat) (v : Byte) :
    blockWrite x y v (s.withRun resps actions ci) = (blockWrite x y v s).withRun resps actions ci := by
  simp only [blockWrite]
  split_ifs <;> rfl

theorem blitColumns_withRun (x y : Nat) (cols : Fin 5 → Byte) :
    blitColumns x y cols (s.withRun resps actions ci) = (blitColumns x y cols s).withRun resps actions ci :=
  List.foldl_hom (State.withRun · resps actions ci) fun u i =>
    blockWrite_withRun u resps actions ci (x + i.val) y (cols i)

/-! ### Each command -/

theorem responseWord_withRun (i : Instr) : responseWord (s.withRun resps actions ci) i = responseWord s i := by
  cases i with
  | bounce p => exact congrArg outcomeBit (bounces_withRun s resps actions ci p)
  | gety p => exact congrArg (fun pad => signedWord (padY pad)) (pad_withRun s resps actions ci p)
  | rdp p f => cases p <;> rfl
  | rdsc p => exact congrArg zextByte (score_withRun s resps actions ci p)
  | _ => rfl

theorem effect_withRun (i : Instr) :
    effect (s.withRun resps actions ci) i = (effect s i).withRun resps actions ci := by
  cases i with
  | nop | rdb | gety | rdp | chkpt | rdsc | rdfb | tickon | tickoff | step | serve | wrb | fbclr => rfl
  | rfall => exact transmit_withRun s resps actions ci (refreshAllBytes s)
  | rfpx x y => exact transmit_withRun s resps actions ci (refreshPixelBytes s (coord x) (coord y))
  | rfreg x0 y0 x1 y1 =>
    exact transmit_withRun s resps actions ci (refreshRegionBytes s (coord x0) (coord y0) (coord x1) (coord y1))
  | txcmd | txdat | dinit => exact transmit_withRun s resps actions ci _
  | bounce p => exact bounce_withRun s resps actions ci p
  | walls => exact walls_withRun s resps actions ci
  | tick => exact tickSequence_withRun s resps actions ci
  | sety p | wrp p => cases p <;> rfl
  | regpt p => exact registerPoint_withRun s resps actions ci p
  | pxset | pxclr | pxtog => exact plot_withRun s resps actions ci _ _
  | lineset | lineclr | linetog => exact drawLine_withRun s resps actions ci _ _ _ _ _
  | block x y v => exact blockWrite_withRun s resps actions ci _ _ v
  | glyph x y ch => exact blitColumns_withRun s resps actions ci _ _ _

/-- An effect that is the same in every run cannot write the run it is in. -/
theorem effect_keeps_run (i : Instr) : (effect s i).withRun s.resps s.actions s.ci = effect s i :=
  (effect_withRun s s.resps s.actions s.ci i).symm

end

/-- Settles O13: effect and response of a command are the same in every run, and so the effect does not write it. -/
theorem commandsIgnoreTheRun : Obligations.CommandsIgnoreTheRun := by
  intro i s resps actions ci
  have hkeep := effect_keeps_run s i
  have hresps : (effect s i).resps = s.resps := by rw [← hkeep]; rfl
  have hactions : (effect s i).actions = s.actions := by rw [← hkeep]; rfl
  have hci : (effect s i).ci = s.ci := by rw [← hkeep]; rfl
  refine ⟨_, responseWord s i, exec_eq_effect_respond i s, by simp [hresps], hactions, hci,
    (effect_onlyWriters i s).cfg, ?_⟩
  calc exec i (s.withRun resps actions ci)
      = .next ((effect (s.withRun resps actions ci) i).respond (responseWord (s.withRun resps actions ci) i)) :=
        exec_eq_effect_respond ..
    _ = .next (((effect s i).respond (responseWord s i)).withRun (resps ++ [responseWord s i]) actions ci) := by
      rw [effect_withRun, responseWord_withRun, respond_withRun]

end Sys2Proof.Machine
end

section
/-! What a command can do to the score registers (10_state.md R26, 42_score.md R184, R185): nothing, one point counted
while none is pending, or the flags consumed by SERVE. -/

namespace Sys2Proof.Machine

/-- From `s` to `t` the scores are kept, or no point was pending and one side's was counted (R185). -/
def AtMostOnePoint (s t : State) : Prop :=
  (t.score0 = s.score0 ∧ t.score1 = s.score1) ∨
    s.playing = true ∧
      (t.score0 = scorePoint s.score0 ∧ t.score1 = s.score1 ∨ t.score0 = s.score0 ∧ t.score1 = scorePoint s.score1)

theorem registerPoint_atMostOnePoint (s : State) (p : Side) : AtMostOnePoint s (s.registerPoint p) := by
  rcases s.registerPoint_cases p with ⟨hplay, e⟩ | ⟨-, e⟩ <;> rw [e]
  · cases p with
    | left => exact .inr ⟨hplay, .inl ⟨rfl, rfl⟩⟩
    | right => exact .inr ⟨hplay, .inr ⟨rfl, rfl⟩⟩
  · exact .inl ⟨rfl, rfl⟩

theorem walls_atMostOnePoint (s : State) : AtMostOnePoint s s.walls := by
  have hexit : AtMostOnePoint s s.horizontalExit := by
    unfold State.horizontalExit
    split
    · next p _ => exact registerPoint_atMostOnePoint (s.setBall (serveBall s.cfg p s.ball)) p
    · exact .inl ⟨rfl, rfl⟩
  exact hexit

/-- Only the last command of the tick sequence counts points (40_ball_physics.md R150). -/
theorem tickSequence_atMostOnePoint (s : State) : AtMostOnePoint s s.tickSequence := by
  have hwalls := walls_atMostOnePoint ((s.ballStep.bounce .left).bounce .right)
  simpa [AtMostOnePoint, State.playing, State.tickSequence] using hwalls

/-- Everything a command can do to the score registers. -/
theorem effect_score_cases (i : Instr) (s : State) :
    AtMostOnePoint s (effect s i) ∨
      i = .serve ∧ (effect s i).score0 = clearPend s.score0 ∧ (effect s i).score1 = clearPend s.score1 := by
  cases hi : i.scores with
  | false => exact .inl (.inl ((effect_onlyWriters i s).scores hi))
  | true =>
    cases i with
    | walls => exact .inl (walls_atMostOnePoint s)
    | tick => exact .inl (tickSequence_atMostOnePoint s)
    | regpt p => exact .inl (registerPoint_atMostOnePoint s p)
    | serve => exact .inr ⟨rfl, rfl, rfl⟩
    | _ => simp [Instr.scores] at hi

theorem State.respond_score (s : State) (r : Word) (p : Side) : (s.respond r).score p = s.score p := by
  cases p <;> rfl

/-- The score register of one side after a command: kept, counted while no point is pending, or consumed by SERVE. -/
theorem effect_score (i : Instr) (s : State) (p : Side) :
    (effect s i).score p = s.score p ∨
      s.playing = true ∧ (effect s i).score p = scorePoint (s.score p) ∨
        i = .serve ∧ (effect s i).score p = clearPend (s.score p) := by
  rcases effect_score_cases i s with (⟨h0, h1⟩ | ⟨hplay, ⟨h0, h1⟩ | ⟨h0, h1⟩⟩) | ⟨hi, h0, h1⟩ <;> cases p
  · exact .inl h0
  · exact .inl h1
  · exact .inr (.inl ⟨hplay, h0⟩)
  · exact .inl h1
  · exact .inl h0
  · exact .inr (.inl ⟨hplay, h1⟩)
  · exact .inr (.inr ⟨hi, h0⟩)
  · exact .inr (.inr ⟨hi, h1⟩)

theorem pend_score_of_playing {s : State} (h : s.playing = true) (p : Side) : pend (s.score p) = false := by
  obtain ⟨h0, h1⟩ := s.playing_iff.1 h
  cases p with
  | left => exact h0
  | right => exact h1

/-- Settles O18: kept, counted or consumed, each score register moves as R26 says, and two of them only under SERVE. -/
theorem countsRiseByAtMostOne : Obligations.CountsRiseByAtMostOne := by
  intro i s _
  refine ⟨_, exec_eq_effect_respond i s, fun p => ?count, ?oneSide, fun p hset hclear => ?clears⟩
  case count =>
    rcases effect_score i s p with e | ⟨hplay, e⟩ | ⟨-, e⟩ <;> rw [State.respond_score, e]
    · exact .inl rfl
    · obtain ⟨hpend, hcount⟩ := scorePoint_bits (pend_score_of_playing hplay p)
      exact .inr ⟨hcount, hpend, s.playing_iff.1 hplay⟩
    · exact .inl (clearPend_bits _).2
  case oneSide =>
    rcases effect_score_cases i s with (⟨h0, -⟩ | ⟨-, ⟨-, h1⟩ | ⟨h0, -⟩⟩) | ⟨hi, -⟩
    · exact .inl h0
    · exact .inr (.inl h1)
    · exact .inl h0
    · exact .inr (.inr hi)
  case clears =>
    rw [State.respond_score] at hclear
    rcases effect_score i s p with e | ⟨hplay, -⟩ | ⟨hi, -⟩
    · simp [e, hset] at hclear
    · simp [pend_score_of_playing hplay p] at hset
    · exact hi

end Sys2Proof.Machine
end

section
/-! A tick keeps the ball in the field (10_state.md R39 (b)): how far STEP can carry the ball vertically, that BOUNCE
keeps the row, and that WALLS brings such an overshoot back. -/

namespace Sys2Proof.Machine

/-! ### STEP: the vertical overshoot is less than a field (40_ball_physics.md R130) -/

theorem two_pow_le_of_width {w : Nat} (h : w ≤ 20) : (2 : Int) ^ (w - 1) ≤ 524288 := by
  have : (2 : Int) ^ (w - 1) ≤ 2 ^ 19 := pow_le_pow_right₀ (by norm_num) (by omega)
  simpa using this

theorem decayVy_eq (w : Nat) (vy : Int) : decayVy w vy = wrapW w (vy - tdiv vy 192) := rfl

theorem integrate_eq (w : Nat) (pos vel : Int) : integrate w pos vel = wrapW w (pos + tdiv vel 64) := rfl

theorem coupleSpin_inWidth (w : Nat) (vx vy spin : Int) : inWidth w (coupleSpin w vx vy spin) := by
  unfold coupleSpin
  split <;> exact inWidth_wrapW w _

/-- The decay takes a 192nd off, so that even the fastest velocity of 20 bits moves the ball less than a field. -/
theorem decayVy_bounds {w : Nat} (hw : 16 ≤ w) (hw20 : w ≤ 20) {vy : Int} (hvy : inWidth w vy) :
    -524288 < decayVy w vy ∧ decayVy w vy < 524288 := by
  obtain ⟨hlo, hhi⟩ := hvy
  have hroom := two_pow_of_width hw
  have hpow := two_pow_le_of_width hw20
  obtain ⟨hpos, hneg⟩ := tdiv_bounds vy (n := 192) (by decide)
  have hnowrap : wrapW w (vy - tdiv vy 192) = vy - tdiv vy 192 :=
    wrapW_of_inWidth (by omega) (by omega) (by omega)
  rw [decayVy_eq, hnowrap]
  omega

/-- With a velocity of less than 2^19 a ball in the field leaves it at the top by less than a field. -/
theorem integrate_gt {w : Nat} (hw : 16 ≤ w) {py vy : Int} (hpy : 0 ≤ py ∧ py < 8192)
    (hvy : -524288 < vy ∧ vy < 524288) : -8192 < integrate w py vy := by
  obtain ⟨hpos, hneg⟩ := tdiv_bounds vy (n := 64) (by decide)
  have hnowrap : wrapW w (py + tdiv vy 64) = py + tdiv vy 64 := wrapW_of_range hw (by omega) (by omega)
  rw [integrate_eq, hnowrap]
  omega

theorem stepBall_py_gt {w : Nat} (hw : 16 ≤ w) (hw20 : w ≤ 20) {b : Ball} (hb : b.inFieldY) :
    -8192 < (stepBall w b).py :=
  integrate_gt hw hb (decayVy_bounds hw hw20 (coupleSpin_inWidth ..))

/-! ### BOUNCE keeps the row (R135) -/

theorem State.bounce_ball_py (s : State) (p : Side) : (s.bounce p).ball.py = s.ball.py := by
  rcases s.bounce_cases p with ⟨-, e⟩ | ⟨-, e⟩
  · rw [e]; rfl
  · rw [e]

/-! ### WALLS brings the ball back on both axes (R140) -/

theorem reflectBall_px (w : Nat) (b : Ball) : (reflectBall w b).px = b.px := by
  rcases reflectBall_cases w b with ⟨-, e⟩ | ⟨-, e⟩ | ⟨-, -, e⟩ <;> rw [e]

/-- The reflection at the top reaches less than a field, the folding at the bottom any distance (R141 (a)). -/
theorem reflectBall_inFieldY {w : Nat} (hw : 16 ≤ w) {b : Ball} (hpy : -8192 < b.py) :
    (reflectBall w b).inFieldY := by
  rcases reflectBall_cases w b with ⟨htop, e⟩ | ⟨-, e⟩ | ⟨hlo, hhi, e⟩ <;> rw [e]
  · have hnowrap : wrapW w (-b.py) = -b.py := wrapW_of_range hw (by omega) (by omega)
    simp only [Ball.inFieldY, yLimit, hnowrap]
    omega
  · have hnowrap : wrapW w (8191 - b.py % 8192) = 8191 - b.py % 8192 := wrapW_of_range hw (by omega) (by omega)
    simp only [Ball.inFieldY, yLimit, hnowrap]
    omega
  · exact ⟨hlo, hhi⟩

/-- After an exit the ball is at a serve position, which is in the field (R140). -/
theorem State.horizontalExit_inFieldX {s : State} (hw : s.widthOk) (hserve : 0 ≤ s.cfg.serveXLeft)
    (hserve' : s.cfg.serveXLeft < 16384) : s.horizontalExit.ball.inFieldX := by
  unfold State.horizontalExit
  rcases exitScorer_cases s.ball.px with ⟨-, e⟩ | ⟨-, e⟩ | ⟨hlo, hhi, e⟩ <;> simp only [e]
  · have hpx : wrapW s.cfg.width serveXRight = 16128 := wrapW_of_range hw (by decide) (by decide)
    simp [serveBall, Ball.inFieldX, xLimit, hpx]
  · have hpx : wrapW s.cfg.width s.cfg.serveXLeft = s.cfg.serveXLeft :=
      wrapW_of_range hw (by omega) (by omega)
    simp [serveBall, Ball.inFieldX, xLimit, hpx, hserve, hserve']
  · exact ⟨hlo, hhi⟩

theorem State.walls_inFieldY {s : State} (hw : s.widthOk) (hpy : -8192 < s.ball.py) : s.walls.ball.inFieldY := by
  rw [State.walls_ball]
  exact reflectBall_inFieldY (by simpa using hw) (by rwa [State.horizontalExit_py])

theorem State.walls_inFieldX {s : State} (hw : s.widthOk) (hserve : 0 ≤ s.cfg.serveXLeft)
    (hserve' : s.cfg.serveXLeft < 16384) : s.walls.ball.inFieldX := by
  rw [State.walls_ball, Ball.inFieldX, reflectBall_px]
  exact State.horizontalExit_inFieldX hw hserve hserve'

/-- Settles O27: STEP leaves the field by less than its height, both BOUNCEs keep the row, WALLS brings the ball back. -/
theorem tickKeepsBallInField : Obligations.TickKeepsBallInField := by
  intro s hw hw20 _ hy hserve hserve'
  refine ⟨_, exec_eq_effect_respond .tick s, ?_, ?_⟩
  · refine State.walls_inFieldY (by simpa using hw) ?_
    rw [State.bounce_ball_py, State.bounce_ball_py]
    exact stepBall_py_gt hw hw20 hy
  · exact State.walls_inFieldX (by simpa using hw) (by simpa using hserve) (by simpa using hserve')

end Sys2Proof.Machine
end

section
/-! The state after reset (10_state.md R38). -/

namespace Sys2Proof.Machine

/-- The framebuffer of a reset machine reads 0x00 at every address (R38). -/
theorem fbRead_resetWith (cfg : Config) (a : Nat) : fbRead (State.resetWith cfg) a = 0x00 := rfl

/-- The default position of a paddle fits its 16 bits, so that nothing is wrapped (10_state.md R38). -/
theorem reset_pad (p : Side) : State.reset.pad p = ⟨512, 0⟩ := by cases p <;> decide

/-- Settles O10, row by row of R38's table. -/
theorem resetValues : Obligations.ResetValues := by
  refine ⟨rfl, by decide, reset_pad .left, reset_pad .right, fun cfg => ⟨rfl, rfl, rfl, rfl, rfl, rfl,
    fbRead_resetWith cfg, rfl, Display.reset, rfl, ?_⟩⟩
  exact ⟨rfl, rfl, rfl, rfl, rfl, rfl, rfl, rfl, rfl⟩

/-- Settles O16: reset leaves wrapped values in the registers, empty memories and no flag set. -/
theorem invariantAtReset : Obligations.InvariantAtReset := resetWith_inv

end Sys2Proof.Machine
end

section
/-! Runs of several actions (20_memory.md R70 to R73): a run is cut at any step, a command of the action list runs as it
decodes, and while ticks are disabled the tick requests after a command are lost (60_exceptions.md R293). -/

namespace Sys2Proof.Machine

/-! ### A run, cut into parts -/

theorem run_add {M : Host.Core} {m : Nat} {s t : M.State} (h : M.run m s = .next t) (n : Nat) :
    M.run (m + n) s = M.run n t := by
  induction m generalizing s with
  | zero =>
    obtain rfl : s = t := by simpa [Host.Core.run] using h
    rw [Nat.zero_add]
  | succ m ih =>
    rw [Nat.succ_add]
    simp only [Host.Core.run] at h ⊢
    cases hs : M.step s with
    | next u => exact ih (by simpa [hs] using h)
    | fault r => simp [hs] at h
    | refused r => simp [hs] at h

theorem run_one {s t : State} (h : step s = .next t) : Sys2Proof.core.run 1 s = .next t := by
  have hcore : Sys2Proof.core.step s = .next t := h
  simp [Host.Core.run, hcore]

/-! ### One command of the run -/

theorem step_of_decode {s : State} {w : Command} {rest : List Action} {i : Instr}
    (h : s.actions = .command w :: rest) (hw : decode w = .ok i) : step s = exec i (s.takeCommand rest) := by
  simp [step_command h, runCommand, hw]

theorem decode_of_decodeTableWord {nbits w : Nat} {i : Instr} (h : decodeTableWord nbits w = some i) :
    decode (commandOfTableWord nbits w) = .ok i := by
  unfold decodeTableWord at h
  cases hw : decode (commandOfTableWord nbits w) with
  | ok j => simpa [hw, Except.toOption] using h
  | error e => simp [hw, Except.toOption] at h

/-- A command of the run: its effect, one response more, and the command index advanced. -/
theorem run_command {w : Command} {i : Instr} (hw : decode w = .ok i) (s : State) (resps : List Word)
    (rest : List Action) (ci : Nat) :
    Sys2Proof.core.run 1 (s.withRun resps (.command w :: rest) ci) =
      .next ((effect s i).withRun (resps ++ [responseWord s i]) rest (ci + 1)) := by
  have hstep : step (s.withRun resps (.command w :: rest) ci) = exec i (s.withRun resps rest (ci + 1)) :=
    step_of_decode rfl hw
  refine run_one ?_
  rw [hstep, exec_eq_effect_respond, effect_withRun, responseWord_withRun, respond_withRun]
  rfl

/-- Settles O5: the action in front is the word, in the second case the one `withFetchWord` has put there. -/
theorem stepRunsDecodedCommand : Obligations.StepRunsDecodedCommand :=
  ⟨fun _ _ _ _ h hw => step_of_decode h hw,
    fun s nbits w _ h => step_of_decode (s := s.withFetchWord nbits w) rfl (decode_of_decodeTableWord h)⟩

/-! ### Tick requests while ticks are disabled -/

theorem step_tickRequest_disabled {s : State} {rest : List Action} (h : s.actions = .tickRequest :: rest)
    (hoff : s.tickEn = false) : step s = .next (s.take rest) := by
  rw [step_tickRequest h]
  simp [acceptTick, hoff]

/-- Requests that find ticks disabled are lost, not deferred (70_reset_and_hazards.md R330). -/
theorem run_tickRequests_disabled {n : Nat} {s : State} {rest : List Action}
    (h : s.actions = List.replicate n Action.tickRequest ++ rest) (hoff : s.tickEn = false) :
    Sys2Proof.core.run n s = .next (s.take rest) := by
  induction n generalizing s with
  | zero =>
    obtain rfl : s.actions = rest := h
    rfl
  | succ n ih =>
    have hfirst := run_one (step_tickRequest_disabled h hoff)
    rw [Nat.add_comm, run_add hfirst]
    exact ih rfl hoff

/-- A command that leaves ticks disabled, then tick requests: the run is the one of the command alone. -/
theorem run_command_tickRequests {w : Command} {i : Instr} (hw : decode w = .ok i) {s : State}
    (hoff : (effect s i).tickEn = false) (n : Nat) (resps : List Word) (rest : List Action) (ci : Nat) :
    Sys2Proof.core.run (1 + n)
        (s.withRun resps (.command w :: (List.replicate n Action.tickRequest ++ rest)) ci) =
      .next ((effect s i).withRun (resps ++ [responseWord s i]) rest (ci + 1)) := by
  rw [run_add (run_command hw ..)]
  exact run_tickRequests_disabled rfl hoff

/-! ### The critical section -/

theorem eq_withRun_of_actions {s : State} {acts : List Action} (h : s.actions = acts) :
    s = s.withRun s.resps acts s.ci := by
  rw [← h]
  rfl

/-- RDB has no effect on the state (45_system_debug.md R273). -/
theorem effect_rdb (s : State) (r : Byte) : effect s (.rdb r) = s := rfl

/-- Settles O58: no command of the critical section before TICKON leaves ticks enabled, so that both RDBs read the ball
TICKOFF found. -/
theorem snapshotIsOneInstant : Obligations.SnapshotIsOneInstant := by
  intro s a b c rest h
  have htickoff : decode 0x0200000000 = .ok .tickoff := by decide
  have hreadPx : decode 0x1800000000 = .ok (.rdb 0) := by decide
  have hreadPy : decode 0x1801000000 = .ok (.rdb 1) := by decide
  have htickon : decode 0x0100000000 = .ok .tickon := by decide
  have hoff : (effect s .tickoff).tickEn = false := rfl
  have hsteps : a + b + c + 4 = (1 + a) + ((1 + b) + ((1 + c) + 1)) := by omega
  conv_lhs =>
    rw [hsteps, eq_withRun_of_actions h, run_add (run_command_tickRequests htickoff hoff ..),
      run_add (run_command_tickRequests hreadPx (s := effect s .tickoff) hoff ..), effect_rdb,
      run_add (run_command_tickRequests hreadPy (s := effect s .tickoff) hoff ..), effect_rdb, run_command htickon]
  simp only [List.append_assoc]
  rfl

end Sys2Proof.Machine
end

section
/-! The command word (30_encoding.md R90 to R96): a word is its five fields, the decoder reads off the opcode which
command a word is and off the fields what its operands are, and the bits it ignores are the ones outside
`operandMask`. -/

namespace Sys2Proof.Laws.EncodedOpcode

/-- The command-by-command laws as one. -/
theorem of_instr : ∀ i : Instr, Statement i
  | .nop => nop | .tickon => tickon | .tickoff => tickoff | .step => step | .bounce p => bounce p | .walls => walls
  | .tick => tick | .serve => serve | .rdb r => rdb r | .wrb r imm => wrb r imm | .sety p imm => sety p imm
  | .gety p => gety p | .rdp p f => rdp p f | .wrp p f imm => wrp p f imm | .regpt s => regpt s | .chkpt => chkpt
  | .rdsc s => rdsc s | .pxset x y => pxset x y | .pxclr x y => pxclr x y | .pxtog x y => pxtog x y
  | .lineset x0 y0 x1 y1 => lineset x0 y0 x1 y1 | .lineclr x0 y0 x1 y1 => lineclr x0 y0 x1 y1
  | .linetog x0 y0 x1 y1 => linetog x0 y0 x1 y1 | .block x y v => block x y v | .glyph x y ch => glyph x y ch
  | .fbclr => fbclr | .rdfb imm => rdfb imm | .rfall => rfall | .rfpx x y => rfpx x y
  | .rfreg x0 y0 x1 y1 => rfreg x0 y0 x1 y1 | .txcmd v => txcmd v | .txdat v => txdat v | .dinit => dinit

end Sys2Proof.Laws.EncodedOpcode

namespace Sys2Proof

open Sys2Proof.Machine

/-! ### A word and its fields (R90, R91) -/

@[simp] theorem opField_and (w m : Command) : opField (w &&& m) = opField w &&& opField m := BitVec.extractLsb'_and
@[simp] theorem aField_and (w m : Command) : aField (w &&& m) = aField w &&& aField m := BitVec.extractLsb'_and
@[simp] theorem bField_and (w m : Command) : bField (w &&& m) = bField w &&& bField m := BitVec.extractLsb'_and
@[simp] theorem cField_and (w m : Command) : cField (w &&& m) = cField w &&& cField m := BitVec.extractLsb'_and
@[simp] theorem dField_and (w m : Command) : dField (w &&& m) = dField w &&& dField m := BitVec.extractLsb'_and

/-- The five fields are all of a word. -/
theorem pack_fields (w : Command) : pack (opField w) (aField w) (bField w) (cField w) (dField w) = w := by
  refine BitVec.eq_of_getLsbD_eq fun i hi => ?_
  simp only [pack_getLsbD, opField, aField, bField, cField, dField, BitVec.getLsbD_extractLsb']
  split_ifs with h8 h16 h24 h32
  · simp [h8]
  · simp [show i - 8 < 8 by omega, show 8 + (i - 8) = i by omega]
  · simp [show i - 16 < 8 by omega, show 16 + (i - 16) = i by omega]
  · simp [show i - 24 < 8 by omega, show 24 + (i - 24) = i by omega]
  · simp [show i - 32 < 8 by omega, show 32 + (i - 32) = i by omega]

theorem eq_pack_iff {w : Command} {op a b c d : Byte} :
    w = pack op a b c d ↔ opField w = op ∧ aField w = a ∧ bField w = b ∧ cField w = c ∧ dField w = d := by
  constructor
  · rintro rfl
    simp
  · rintro ⟨rfl, rfl, rfl, rfl, rfl⟩
    exact (pack_fields w).symm

/-- An immediate is its two bytes (R91). -/
theorem immBytes_eq_iff {w : Command} {imm : Word} :
    cField w = immHigh imm ∧ dField w = immLow imm ↔ immField w = imm := by
  constructor
  · rintro ⟨hc, hd⟩
    rw [← pack_fields w, hc, hd, immField_pack]
  · rintro rfl
    refine ⟨BitVec.eq_of_getLsbD_eq fun i hi => ?_, BitVec.eq_of_getLsbD_eq fun i hi => ?_⟩
    · simp [cField, immHigh, immField, hi]
    · simp [dField, immLow, immField, hi]

/-- Of a select byte only bit 0 counts (R91). -/
theorem aField_and_one_eq_sideByte_iff {w : Command} {p : Side} : aField w &&& 1#8 = sideByte p ↔ sideField w = p := by
  have hbit : aField w &&& 1#8 = (BitVec.ofBool ((aField w).getLsbD 0)).setWidth 8 :=
    BitVec.and_one_eq_setWidth_ofBool_getLsbD
  rw [hbit, sideField, sideOfByte]
  cases (aField w).getLsbD 0 <;> cases p <;> decide

/-- The select is bit 24 of the word (R92). -/
theorem sideField_eq_selectBit (w : Command) : sideField w = selectBit w := by
  have hbit : (aField w).getLsbD 0 = w.getLsbD 24 := by simp [aField]
  rw [sideField, sideOfByte, hbit]

/-! ### The decoder: the opcode says which command, the fields are its operands (R92) -/

/-- The command of `i`'s kind whose operands are the fields of `w`. -/
def Instr.withOperandsOf (w : Command) : Instr → Instr
  | .bounce _ => .bounce (sideField w)
  | .rdb _ => .rdb (aField w)
  | .wrb _ _ => .wrb (aField w) (immField w)
  | .sety _ _ => .sety (sideField w) (immField w)
  | .gety _ => .gety (sideField w)
  | .rdp _ _ => .rdp (sideField w) (bField w)
  | .wrp _ _ _ => .wrp (sideField w) (bField w) (immField w)
  | .regpt _ => .regpt (sideField w)
  | .rdsc _ => .rdsc (sideField w)
  | .pxset _ _ => .pxset (aField w) (bField w)
  | .pxclr _ _ => .pxclr (aField w) (bField w)
  | .pxtog _ _ => .pxtog (aField w) (bField w)
  | .lineset _ _ _ _ => .lineset (aField w) (bField w) (cField w) (dField w)
  | .lineclr _ _ _ _ => .lineclr (aField w) (bField w) (cField w) (dField w)
  | .linetog _ _ _ _ => .linetog (aField w) (bField w) (cField w) (dField w)
  | .block _ _ _ => .block (aField w) (bField w) (cField w)
  | .glyph _ _ _ => .glyph (aField w) (bField w) (cField w)
  | .rdfb _ => .rdfb (immField w)
  | .rfpx _ _ => .rfpx (aField w) (bField w)
  | .rfreg _ _ _ _ => .rfreg (aField w) (bField w) (cField w) (dField w)
  | .txcmd _ => .txcmd (aField w)
  | .txdat _ => .txdat (aField w)
  | i => i

/-- A word with the opcode of `i` is a command of `i`'s kind. -/
theorem decode_of_opField {w : Command} {i : Instr} (h : opField w = opcode i) :
    decode w = .ok (i.withOperandsOf w) := by
  unfold decode
  rw [h]
  cases i <;> rfl

/-- All that decoding can do (R92, R94): a word carries the opcode of the command it decodes to, or a reserved one, which
is rejected by name. -/
theorem decode_cases (w : Command) :
    (∃ i, decode w = .ok i ∧ opField w = opcode i) ∨
      (decode w = .error (.reservedOpcode (opField w)) ∧ reservedOpcode (opField w).toNat) := by
  have hlt := (opField w).isLt
  unfold decode
  split
  case h_34 =>
    refine .inr ⟨rfl, ?_⟩
    simp only [imp_false] at *
    omega
  all_goals
    rename_i hop
    exact .inl ⟨_, rfl, BitVec.eq_of_toNat_eq hop⟩

theorem opField_of_decode {w : Command} {i : Instr} (h : decode w = .ok i) : opField w = opcode i := by
  obtain ⟨j, hj, hop⟩ | ⟨herr, -⟩ := decode_cases w
  · obtain rfl : j = i := by simpa [hj] using h
    exact hop
  · simp [herr] at h

theorem decode_eq_ok_iff {w : Command} {i : Instr} :
    decode w = .ok i ↔ opField w = opcode i ∧ i.withOperandsOf w = i := by
  constructor
  · intro h
    have hop := opField_of_decode h
    exact ⟨hop, by simpa [decode_of_opField hop] using h⟩
  · rintro ⟨hop, hi⟩
    rw [decode_of_opField hop, hi]

/-! ### The encoder and the bits a command uses (R91, R96) -/

@[simp] theorem and_ones (a : Byte) : a &&& 255#8 = a := BitVec.and_allOnes

/-- A word agrees with an encoding on the opcode and on the operand bits of the masks `ma` to `md`. -/
theorem and_operandMask_iff_of_masks {w : Command} {i : Instr} (ma mb mc md : Byte) {a b c d : Byte}
    (hmask : operandMask i = pack 255#8 ma mb mc md) (hencode : encode i = pack (opcode i) a b c d)
    (hfields : aField w &&& ma = a ∧ bField w &&& mb = b ∧ cField w &&& mc = c ∧ dField w &&& md = d ↔
      i.withOperandsOf w = i) :
    w &&& operandMask i = encode i ↔ opField w = opcode i ∧ i.withOperandsOf w = i := by
  simp [← hfields, hmask, hencode, eq_pack_iff]

/-- The used bits of a word are those of the encoding when the opcode is the command's and the fields are its operands,
whatever the ignored bits are. The cases are the operand forms of R92. -/
theorem and_operandMask_eq_encode_iff {w : Command} {i : Instr} :
    w &&& operandMask i = encode i ↔ opField w = opcode i ∧ i.withOperandsOf w = i := by
  cases i with
  | nop | tickon | tickoff | step | walls | tick | serve | chkpt | fbclr | rfall | dinit =>
    exact and_operandMask_iff_of_masks 0x00 0x00 0x00 0x00 rfl rfl (by simp [Instr.withOperandsOf])
  | bounce p | gety p | regpt p | rdsc p =>
    exact and_operandMask_iff_of_masks 0x01 0x00 0x00 0x00 rfl rfl
      (by simp [Instr.withOperandsOf, aField_and_one_eq_sideByte_iff])
  | rdb v | txcmd v | txdat v =>
    exact and_operandMask_iff_of_masks 0xFF 0x00 0x00 0x00 rfl rfl (by simp [Instr.withOperandsOf])
  | wrb r imm =>
    exact and_operandMask_iff_of_masks 0xFF 0x00 0xFF 0xFF rfl rfl
      (by simp [Instr.withOperandsOf, immBytes_eq_iff])
  | sety p imm =>
    exact and_operandMask_iff_of_masks 0x01 0x00 0xFF 0xFF rfl rfl
      (by simp [Instr.withOperandsOf, aField_and_one_eq_sideByte_iff, immBytes_eq_iff])
  | rdp p f =>
    exact and_operandMask_iff_of_masks 0x01 0xFF 0x00 0x00 rfl rfl
      (by simp [Instr.withOperandsOf, aField_and_one_eq_sideByte_iff])
  | wrp p f imm =>
    exact and_operandMask_iff_of_masks 0x01 0xFF 0xFF 0xFF rfl rfl
      (by simp [Instr.withOperandsOf, aField_and_one_eq_sideByte_iff, immBytes_eq_iff])
  | pxset x y | pxclr x y | pxtog x y | rfpx x y =>
    exact and_operandMask_iff_of_masks 0xFF 0xFF 0x00 0x00 rfl rfl (by simp [Instr.withOperandsOf])
  | lineset x0 y0 x1 y1 | lineclr x0 y0 x1 y1 | linetog x0 y0 x1 y1 | rfreg x0 y0 x1 y1 =>
    exact and_operandMask_iff_of_masks 0xFF 0xFF 0xFF 0xFF rfl rfl (by simp [Instr.withOperandsOf])
  | block x y v | glyph x y v =>
    exact and_operandMask_iff_of_masks 0xFF 0xFF 0xFF 0x00 rfl rfl (by simp [Instr.withOperandsOf])
  | rdfb imm =>
    exact and_operandMask_iff_of_masks 0x00 0x00 0xFF 0xFF rfl rfl
      (by simp [Instr.withOperandsOf, immBytes_eq_iff])

theorem decode_eq_ok_iff_usedBits {w : Command} {i : Instr} : decode w = .ok i ↔ w &&& operandMask i = encode i :=
  decode_eq_ok_iff.trans and_operandMask_eq_encode_iff.symm

theorem opField_encode (i : Instr) : opField (encode i) = opcode i := (Laws.EncodedOpcode.of_instr i).1

theorem withOperandsOf_encode (i : Instr) : i.withOperandsOf (encode i) = i := by
  cases i <;> simp [Instr.withOperandsOf, encode]

/-- Settles O2: decoding and agreeing with the encoding on the used bits both mean that the opcode is the command's and
the fields are its operands. -/
theorem wordDecodesExactlyToItsEncoding : Obligations.WordDecodesExactlyToItsEncoding :=
  ⟨fun i => decode_eq_ok_iff.mpr ⟨opField_encode i, withOperandsOf_encode i⟩, fun _ _ => decode_eq_ok_iff_usedBits⟩

/-! ### The opcode map (R92, R94) -/

theorem encodes_of_opcode {op : Byte} {f : Command → Instr} (i : Instr) (hop : opcode i = op)
    (hf : ∀ w, i.withOperandsOf w = f w) : Encodes op f := by
  intro w hw
  rw [decode_of_opField (i := i) (hw.trans hop.symm), hf]

/-- A reserved opcode is no command's (R94). -/
theorem decode_ne_ok_of_reserved {w : Command} (h : reservedOpcode (opField w).toNat) (i : Instr) :
    decode w ≠ .ok i := by
  intro hi
  rw [opField_of_decode hi] at h
  exact (Laws.EncodedOpcode.of_instr i).2 h

/-- Settles O3: one row of R92 after the other. -/
theorem opcodeMap : Obligations.OpcodeMap := by
  refine ⟨encodes_of_opcode .nop rfl fun _ => rfl, encodes_of_opcode .tickon rfl fun _ => rfl,
    encodes_of_opcode .tickoff rfl fun _ => rfl, encodes_of_opcode .step rfl fun _ => rfl,
    encodes_of_opcode (.bounce .left) rfl fun w => ?_, encodes_of_opcode .walls rfl fun _ => rfl,
    encodes_of_opcode .tick rfl fun _ => rfl, encodes_of_opcode .serve rfl fun _ => rfl,
    encodes_of_opcode (.rdb 0) rfl fun _ => rfl, encodes_of_opcode (.wrb 0 0) rfl fun _ => rfl,
    encodes_of_opcode (.sety .left 0) rfl fun w => ?_, encodes_of_opcode (.gety .left) rfl fun w => ?_,
    encodes_of_opcode (.rdp .left 0) rfl fun w => ?_, encodes_of_opcode (.wrp .left 0 0) rfl fun w => ?_,
    encodes_of_opcode (.regpt .left) rfl fun w => ?_, encodes_of_opcode .chkpt rfl fun _ => rfl,
    encodes_of_opcode (.rdsc .left) rfl fun w => ?_, encodes_of_opcode (.pxset 0 0) rfl fun _ => rfl,
    encodes_of_opcode (.pxclr 0 0) rfl fun _ => rfl, encodes_of_opcode (.pxtog 0 0) rfl fun _ => rfl,
    encodes_of_opcode (.lineset 0 0 0 0) rfl fun _ => rfl, encodes_of_opcode (.lineclr 0 0 0 0) rfl fun _ => rfl,
    encodes_of_opcode (.linetog 0 0 0 0) rfl fun _ => rfl, encodes_of_opcode (.block 0 0 0) rfl fun _ => rfl,
    encodes_of_opcode (.glyph 0 0 0) rfl fun _ => rfl, encodes_of_opcode .fbclr rfl fun _ => rfl,
    encodes_of_opcode (.rdfb 0) rfl fun _ => rfl, encodes_of_opcode .rfall rfl fun _ => rfl,
    encodes_of_opcode (.rfpx 0 0) rfl fun _ => rfl, encodes_of_opcode (.rfreg 0 0 0 0) rfl fun _ => rfl,
    encodes_of_opcode (.txcmd 0) rfl fun _ => rfl, encodes_of_opcode (.txdat 0) rfl fun _ => rfl,
    encodes_of_opcode .dinit rfl fun _ => rfl, fun _ => decode_ne_ok_of_reserved⟩
  all_goals
    rw [← sideField_eq_selectBit]
    rfl

/-- A word that is no command runs as NOP (R94). -/
theorem runCommand_of_reserved {w : Command} (h : reservedOpcode (opField w).toNat) (s : State) :
    runCommand w s = exec .nop s := by
  obtain ⟨i, hi, -⟩ | ⟨-, hnop⟩ := runCommand_cases w s
  · exact absurd hi (decode_ne_ok_of_reserved h i)
  · exact hnop

/-- Settles O4: decoding succeeds or the opcode is reserved, never both. -/
theorem reservedOpcodesExecuteAsNop : Obligations.ReservedOpcodesExecuteAsNop := by
  refine ⟨fun w => ⟨fun ⟨i, hi⟩ hres => decode_ne_ok_of_reserved hres i hi, fun hres => ?_⟩,
    fun w s h => ⟨runCommand_of_reserved h s, runCommand_of_reserved h s⟩⟩
  obtain ⟨i, hi, -⟩ | ⟨-, h⟩ := decode_cases w
  · exact ⟨i, hi⟩
  · exact absurd h hres

/-- Settles O1: each word agrees with its command's encoding on the bits the command uses; STEP and REGPT carry others. -/
theorem decodeReadsWrittenWords : Obligations.DecodeReadsWrittenWords := by
  simp only [Obligations.DecodeReadsWrittenWords, decode_eq_ok_iff_usedBits]
  decide

end Sys2Proof
end

section
/-! Every command gives one response word (30_encoding.md R93). -/

namespace Sys2Proof.Machine

theorem responseWord_of_not_responds {i : Instr} (h : i.responds = false) (s : State) : responseWord s i = 0x0000 := by
  cases i with
  | bounce | walls | chkpt | gety | rdb | rdp | rdsc | rdfb => simp [Instr.responds] at h
  | _ => rfl

/-- The effect of a command gives no response; the response follows it. -/
theorem effect_resps (s : State) (i : Instr) : (effect s i).resps = s.resps := by
  rw [← effect_keeps_run s i]
  rfl

/-- Settles O12: the one response is the command's response word. -/
theorem oneResponsePerCommand : Obligations.OneResponsePerCommand := fun i s =>
  ⟨_, responseWord s i, exec_eq_effect_respond i s, by simp [effect_resps], fun h => responseWord_of_not_responds h s⟩

end Sys2Proof.Machine
end

section
/-! The serial wave and the ports during a command (30_encoding.md R93, R110, R111; 20_memory.md R70, R74). -/

namespace Sys2Proof.Machine

theorem Framing.level_eq (f : Framing) : f.level = decide (f = .data) := by cases f <;> rfl

/-! ### What is sampled (R111) -/

/-- The two clock phases of each bit of a byte with mode signal `dc`. -/
def bitWave (dc : Option Bool) (bits : List Bool) : List Pins :=
  bits.flatMap fun b => [⟨false, dc, false, some b⟩, ⟨false, dc, true, some b⟩]

/-- A byte's wave by its parts. -/
theorem byteWave_eq (t : TxByte) :
    byteWave t = ⟨true, some t.dc.level, false, none⟩ :: (⟨false, some t.dc.level, false, none⟩ ::
      (bitWave (some t.dc.level) (bitsOut t.byte) ++ [⟨false, some t.dc.level, false, none⟩]) ++
        [⟨true, some t.dc.level, false, none⟩]) := by
  simp [byteWave, bitWave]

/-- No sample is taken while the clock stays low. -/
theorem samples_cons_of_low {q : Pins} (hq : q.sclk = false) (p : Pins) (ps : List Pins) :
    samples (p :: q :: ps) = samples (q :: ps) := by
  simp [samples, hq]

/-- Each bit is sampled once, at the rising edge in its middle, whatever the level before the first bit. -/
theorem samples_bitWave (dc : Option Bool) (bits : List Bool) {q : Pins} (hq : q.sclk = false) (p : Pins)
    (ps : List Pins) :
    samples (p :: (bitWave dc bits ++ q :: ps)) = bits.map (fun b => (dc, some b)) ++ samples (q :: ps) := by
  induction bits generalizing p with
  | nil => exact samples_cons_of_low hq p ps
  | cons b bits ih =>
    have hrise : ∀ rest, samples (p :: ⟨false, dc, false, some b⟩ :: ⟨false, dc, true, some b⟩ :: rest) =
        (dc, some b) :: samples (⟨false, dc, true, some b⟩ :: rest) := fun rest => by simp [samples]
    calc samples (p :: (bitWave dc (b :: bits) ++ q :: ps))
        = (dc, some b) :: samples (⟨false, dc, true, some b⟩ :: (bitWave dc bits ++ q :: ps)) := hrise _
      _ = (b :: bits).map (fun b => (dc, some b)) ++ samples (q :: ps) := by rw [ih]; rfl

/-- What the display samples of one byte: the mode bit with each bit, from 7 down to 0 (R110, R111). -/
def byteSamples (t : TxByte) : List (Option Bool × Option Bool) :=
  (List.range 8).map fun i => (some (decide (t.dc = .data)), some (t.byte.getLsbD (7 - i)))

theorem map_bitsOut (t : TxByte) :
    (bitsOut t.byte).map (fun b => (some t.dc.level, some b)) = byteSamples t := by
  simp [bitsOut, byteSamples, Framing.level_eq]

/-- A byte's frame is sampled as the byte, and its last instant stands for it in what follows. -/
theorem samples_byteWave (t : TxByte) (p : Pins) (ps : List Pins) :
    samples (p :: (byteWave t ++ ps)) =
      byteSamples t ++ samples (⟨true, some t.dc.level, false, none⟩ :: ps) := by
  rw [byteWave_eq, ← map_bitsOut]
  simp [samples_cons_of_low, samples_bitWave]

theorem samples_cons_serialWave (p : Pins) (ts : List TxByte) :
    samples (p :: serialWave ts) = ts.flatMap byteSamples := by
  induction ts generalizing p with
  | nil => rfl
  | cons t ts ih => rw [serialWave_cons, samples_byteWave, ih, List.flatMap_cons]

theorem samples_serialWave (ts : List TxByte) : samples (serialWave ts) = ts.flatMap byteSamples := by
  cases ts with
  | nil => rfl
  | cons t ts =>
    have hidle : samples (Pins.idle :: serialWave (t :: ts)) = samples (serialWave (t :: ts)) :=
      samples_cons_of_low rfl _ _
    rw [← hidle, samples_cons_serialWave]

/-! ### The frame of a byte (R110) -/

/-- Inside a byte's frame chip select is low, and the mode signal is `dc`. -/
theorem csN_dc_of_mem_bitWave {dc : Option Bool} {bits : List Bool} {p : Pins} (h : p ∈ bitWave dc bits) :
    p.csN = false ∧ p.dc = dc := by
  obtain ⟨b, -, hp⟩ := List.mem_flatMap.mp h
  obtain rfl | rfl : p = ⟨false, dc, false, some b⟩ ∨ p = ⟨false, dc, true, some b⟩ := by simpa using hp
  · exact ⟨rfl, rfl⟩
  · exact ⟨rfl, rfl⟩

theorem byteWave_frame (t : TxByte) : ∃ (first last : Pins) (inside : List Pins),
    byteWave t = first :: (inside ++ [last]) ∧ first.csN = true ∧ last.csN = true ∧ first.sclk = false ∧
      last.sclk = false ∧ (∀ p ∈ inside, p.csN = false) ∧ ∀ p ∈ byteWave t, p.dc = some (decide (t.dc = .data)) := by
  refine ⟨_, _, _, byteWave_eq t, rfl, rfl, rfl, rfl, fun p hp => ?_, fun p hp => ?_⟩
  · obtain rfl | hbit | rfl : p = _ ∨ p ∈ _ ∨ p = _ := by simpa using hp
    · rfl
    · exact (csN_dc_of_mem_bitWave hbit).1
    · rfl
  · rw [← Framing.level_eq]
    rw [byteWave_eq] at hp
    obtain rfl | rfl | hbit | rfl | rfl : p = _ ∨ p = _ ∨ p ∈ _ ∨ p = _ ∨ p = _ := by simpa using hp
    · rfl
    · rfl
    · exact (csN_dc_of_mem_bitWave hbit).2
    · rfl
    · rfl

/-! ### The phases of a command (20_memory.md R74) -/

/-- A command only appends to TXLOG (10_state.md R35). -/
theorem effect_txlog (s : State) (i : Instr) : ∃ bytes, (effect s i).txlog = s.txlog ++ bytes := by
  cases i with
  | rfall | rfpx | rfreg | txcmd | txdat | dinit => exact ⟨_, rfl⟩
  | _ => exact ⟨[], by simpa using ((effect_onlyWriters _ s).serial rfl).1⟩

theorem exec_withRun (i : Instr) (s : State) (resps : List Word) (actions : List Action) (ci : Nat) :
    exec i (s.withRun resps actions ci) =
      .next ((effect s i).withRun (resps ++ [responseWord s i]) actions ci) := by
  rw [exec_eq_effect_respond, effect_withRun, responseWord_withRun]
  rfl

/-- Which command a word runs as does not depend on the state (30_encoding.md R94). -/
theorem exists_runCommand_eq_exec (w : Command) : ∃ i, ∀ s, runCommand w s = exec i s := by
  unfold runCommand
  cases decode w with
  | ok i => exact ⟨i, fun _ => rfl⟩
  | error e => exact ⟨.nop, fun _ => rfl⟩

/-- An instant of execution: `cmd_ready` low, no response, nothing accepted (20_memory.md R70). -/
theorem ports_of_mem_executingBytes {ts : List TxByte} {p : Phase} (h : p ∈ executingBytes ts) :
    p.ports.cmdReady = some false ∧ p.ports.respValid = false ∧ p.accepts = false := by
  obtain ⟨pins, -, rfl⟩ := List.mem_map.mp h
  exact ⟨rfl, rfl, rfl⟩

theorem phases_command {s : State} {w : Command} {rest : List Action} (h : s.actions = .command w :: rest) :
    ∃ t bytes r, step s = .next t ∧ t.txlog = s.txlog ++ bytes ∧ t.resps = s.resps ++ [r] ∧
      s.phases = .idle :: (executingBytes bytes ++ [.responding r]) := by
  obtain ⟨i, hrun⟩ := exists_runCommand_eq_exec w
  obtain ⟨bytes, htxlog⟩ := effect_txlog s i
  have hstep : step s = .next ((effect s i).withRun (s.resps ++ [responseWord s i]) rest (s.ci + 1)) := by
    rw [step_command h, hrun]
    exact exec_withRun i s s.resps rest (s.ci + 1)
  have htake : runCommand w (s.take rest) =
      .next ((effect s i).withRun (s.resps ++ [responseWord s i]) rest s.ci) := by
    rw [hrun]
    exact exec_withRun i s s.resps rest s.ci
  have hbytes : bytesSentBy w (s.take rest) = bytes := by simp [bytesSentBy, htake, State.withRun, htxlog]
  have hresps : responsesOf w (s.take rest) = [responseWord s i] := by simp [responsesOf, htake, State.withRun]
  refine ⟨_, bytes, responseWord s i, hstep, htxlog, rfl, ?_⟩
  rw [State.phases_cons h, actionPhases, hbytes, hresps]
  rfl

/-- Settles O54: the samples and the frames of the wave, then the phases of a command. -/
theorem serialWaveSamplesBack : Obligations.SerialWaveSamplesBack := by
  refine ⟨samples_serialWave, byteWave_frame, fun s w rest h => ?_⟩
  obtain ⟨t, bytes, r, hstep, htxlog, hresps, hphases⟩ := phases_command h
  exact ⟨t, bytes, r, hstep, htxlog, hresps, hphases, fun _ => ports_of_mem_executingBytes, rfl, rfl, rfl⟩

end Sys2Proof.Machine
end

section
/-! What RDB, RDP and GETY respond of a register of any width (30_encoding.md R93; log 29). -/

namespace Sys2Proof.Machine

/-- A response is the value's residue modulo 2^16 (R93). -/
theorem signedWord_toNat (v : Int) : ((signedWord v).toNat : Int) = v % 65536 := by
  rw [signedWord, BitVec.toNat_ofInt]
  omega

/-- With at least 16 bits an immediate is stored unchanged, so that it is read back (R91, R93). -/
theorem signedWord_signedImm {w : Nat} (hw : 16 ≤ w) (imm : Word) : signedWord (signedImm w imm) = imm := by
  have hlo := BitVec.le_toInt imm
  have hhi := BitVec.toInt_lt (x := imm)
  rw [signedImm, wrapW_of_range hw (by simpa using hlo) (by simpa using hhi), signedWord, BitVec.ofInt_toInt]

theorem signedWord_padY (pad : Paddle) : pad.pos / 16 % 65536 = (signedWord (padY pad)).toNat := by
  rw [signedWord_toNat, padY, asr_four]

/-- The lane constant is zero-extended: it has 7 bits (45_system_debug.md R275). -/
theorem signedWord_lane (cfg : Config) (p : Side) : (signedWord (laneOf cfg p).toNat).toNat = (laneOf cfg p).toNat := by
  have hlt := (laneOf cfg p).isLt
  have hword := signedWord_toNat (laneOf cfg p).toNat
  omega

/-! ### Registers by index (45_system_debug.md R273 to R276) -/

theorem Ball.register_of_reserved (b : Ball) {r : Nat} (h : 5 ≤ r) : b.register r = 0 := by
  obtain ⟨n, rfl⟩ := Nat.exists_eq_add_of_le' h
  rfl

theorem State.padRegister_of_reserved (s : State) (p : Side) {f : Nat} (h : 3 ≤ f) : s.padRegister p f = 0 := by
  obtain ⟨n, rfl⟩ := Nat.exists_eq_add_of_le' h
  rfl

theorem Ball.register_setRegister_self (b : Ball) {r : Nat} (h : r < 5) (v : Int) : (b.setRegister r v).register r = v := by
  interval_cases r <;> rfl

theorem State.padRegister_setField_self (s : State) (p : Side) {f : Nat} (h : f < 2) (v : Int) :
    (s.setPad p ((s.pad p).setField f v)).padRegister p f = v := by
  interval_cases f <;> cases p <;> rfl

theorem padRegister_respond (s : State) (w : Word) (p : Side) (f : Nat) :
    (s.respond w).padRegister p f = s.padRegister p f := by cases p <;> rfl

/-- RDB of a known index responds a residue of that register. -/
theorem rdb_residue (s : State) {r k : Byte} (h : r = k) :
    s.ball.register (ballIndex k) % 65536 = (responseWord s (.rdb r)).toNat := by
  rw [h]
  exact (signedWord_toNat _).symm

theorem rdp_residue (s : State) (p : Side) {f k : Byte} (h : f = k) :
    s.padRegister p (padField k) % 65536 = (responseWord s (.rdp p f)).toNat := by
  rw [h]
  exact (signedWord_toNat _).symm

/-! ### Write, then read -/

theorem exec_rdb_after_wrb {s : State} (hw : s.widthOk) {r : Byte} (hr : r.toNat < 5) (imm : Word) : ∃ t,
    exec (.wrb r imm) s = .next t ∧ exec (.rdb r) t = .next { t with resps := t.resps ++ [imm] } := by
  refine ⟨_, exec_eq_effect_respond .., ?_⟩
  have hvalue : (effect s (.wrb r imm)).ball.register (ballIndex r) = signedImm s.cfg.width imm :=
    Ball.register_setRegister_self s.ball hr _
  rw [exec_eq_effect_respond, effect_rdb, responseWord, State.respond_ball, hvalue, signedWord_signedImm hw]
  rfl

theorem exec_rdp_after_wrp {s : State} (hw : s.widthOk) (p : Side) {f : Byte} (hf : f.toNat < 2) (imm : Word) : ∃ t,
    exec (.wrp p f imm) s = .next t ∧ exec (.rdp p f) t = .next { t with resps := t.resps ++ [imm] } := by
  refine ⟨_, exec_eq_effect_respond .., ?_⟩
  have hvalue : (effect s (.wrp p f imm)).padRegister p (padField f) = signedImm s.cfg.width imm :=
    State.padRegister_setField_self s p hf _
  rw [exec_eq_effect_respond, responseWord, padRegister_respond, hvalue, signedWord_signedImm hw]
  rfl

/-- Settles O60: each response is a residue of the register read, and a stored immediate is its own residue. -/
theorem wideRegistersRespondLowBits : Obligations.WideRegistersRespondLowBits := by
  refine ⟨fun r f p s => ⟨_, _, _, exec_eq_effect_respond (.rdb r) s, exec_eq_effect_respond (.rdp p f) s,
    exec_eq_effect_respond (.gety p) s, rdb_residue s, rdb_residue s, rdb_residue s, rdb_residue s, rdb_residue s,
    fun hr => congrArg signedWord (Ball.register_of_reserved s.ball hr), rdp_residue s p, rdp_residue s p, ?_,
    fun hf => congrArg signedWord (State.padRegister_of_reserved s p hf), signedWord_padY _⟩,
    fun r f p imm s hw hr hf => ?_⟩
  · rintro rfl
    exact signedWord_lane s.cfg p
  · obtain ⟨t, hwrb, hrdb⟩ := exec_rdb_after_wrb hw hr imm
    obtain ⟨u, hwrp, hrdp⟩ := exec_rdp_after_wrp hw p hf imm
    exact ⟨t, u, hwrb, hrdb, hwrp, hrdp⟩

end Sys2Proof.Machine
end

section
/-! STEP and BOUNCE in the arithmetic of W-bit words (40_ball_physics.md R128, R130, R135): integers wrapped to the
width and words of that width are the same ring, and truncating division agrees with the signed division of words. The
contact that is not repeated and the lanes that are not skipped (R135, R136) follow. -/

namespace Sys2Proof.Machine

/-! ### Integers as words (R11, R128) -/

theorem ofInt_sub (w : Nat) (a b : Int) : BitVec.ofInt w (a - b) = BitVec.ofInt w a - BitVec.ofInt w b := by
  rw [Int.sub_eq_add_neg, BitVec.ofInt_add, BitVec.ofInt_neg, BitVec.sub_eq_add_neg]

theorem ofInt_wrapW (w : Nat) (v : Int) : BitVec.ofInt w (wrapW w v) = BitVec.ofInt w v := by
  rw [← toInt_ofInt_eq_wrapW, BitVec.ofInt_toInt]

/-- A word of at least 16 bits holds a numeral of 15 bits as it is (D1). -/
theorem toInt_ofNat_of_range {w : Nat} (hw : 16 ≤ w) {n : Nat} (hn : n < 32768) : (BitVec.ofNat w n).toInt = n := by
  rw [← BitVec.ofInt_natCast, toInt_ofInt_eq_wrapW, wrapW_of_range hw (by omega) (by omega)]

/-- Dividing a register by a numeral: truncating division is the signed division of words (R11). -/
theorem ofInt_tdiv {w : Nat} (hw : 16 ≤ w) {v : Int} (hv : inWidth w v) {n : Nat} (hn : n < 32768) :
    BitVec.ofInt w (tdiv v n) = (BitVec.ofInt w v).sdiv (BitVec.ofNat w n) := by
  have hkeep : wrapW w v = v := wrapW_of_inWidth (by omega) hv.1 hv.2
  rw [← BitVec.toInt_inj, BitVec.toInt_sdiv, toInt_ofInt_eq_wrapW, toInt_ofInt_eq_wrapW, hkeep,
    toInt_ofNat_of_range hw hn]
  rfl

/-- A value of the range is read back from its word. -/
theorem toInt_ofInt_of_inWidth {w : Nat} (hw : 0 < w) {v : Int} (hv : inWidth w v) : (BitVec.ofInt w v).toInt = v := by
  rw [toInt_ofInt_eq_wrapW, wrapW_of_inWidth hw hv.1 hv.2]

/-- Every width of at least 16 bits holds the 16-bit values (D1). -/
theorem inWidth_of_range {w : Nat} (hw : 16 ≤ w) {v : Int} (hlo : -32768 ≤ v) (hhi : v < 32768) : inWidth w v := by
  have hroom := two_pow_of_width hw
  exact ⟨by omega, by omega⟩

/-! ### STEP, line by line (R130) -/

theorem decaySpin_eq (w : Nat) (spin : Int) : decaySpin w spin = wrapW w (spin - tdiv spin 384) := rfl

theorem ofInt_decaySpin {w : Nat} (hw : 16 ≤ w) {spin : Int} (hspin : inWidth w spin) :
    BitVec.ofInt w (decaySpin w spin) = BitVec.ofInt w spin - (BitVec.ofInt w spin).sdiv 384 := by
  rw [decaySpin_eq, ofInt_wrapW, ofInt_sub]
  exact congrArg _ (ofInt_tdiv hw hspin (n := 384) (by decide))

theorem ofInt_coupleSpin {w : Nat} (hw : 16 ≤ w) (vx vy : Int) {spin : Int} (hspin : inWidth w spin) :
    BitVec.ofInt w (coupleSpin w vx vy spin) =
      if 0 < vx then BitVec.ofInt w vy + (BitVec.ofInt w spin).sdiv 48
      else BitVec.ofInt w vy - (BitVec.ofInt w spin).sdiv 48 := by
  have hdiv := ofInt_tdiv hw hspin (n := 48) (by decide)
  unfold coupleSpin
  split
  · rw [ofInt_wrapW, BitVec.ofInt_add]
    exact congrArg _ hdiv
  · rw [ofInt_wrapW, ofInt_sub]
    exact congrArg _ hdiv

theorem ofInt_decayVy {w : Nat} (hw : 16 ≤ w) {vy : Int} (hvy : inWidth w vy) :
    BitVec.ofInt w (decayVy w vy) = BitVec.ofInt w vy - (BitVec.ofInt w vy).sdiv 192 := by
  rw [decayVy_eq, ofInt_wrapW, ofInt_sub]
  exact congrArg _ (ofInt_tdiv hw hvy (n := 192) (by decide))

/-- A position is written wrapped, so that it is the sum of words, read back. -/
theorem integrate_eq_toInt {w : Nat} (hw : 16 ≤ w) (pos : Int) {vel : Int} (hvel : inWidth w vel) :
    integrate w pos vel = (BitVec.ofInt w pos + (BitVec.ofInt w vel).sdiv 64).toInt := by
  have hdiv := ofInt_tdiv hw hvel (n := 64) (by decide)
  rw [integrate_eq, ← toInt_ofInt_eq_wrapW, BitVec.ofInt_add]
  exact congrArg (fun q => (BitVec.ofInt w pos + q).toInt) hdiv

/-- Settles O19: each line of R130 in words is the word of that line in integers. -/
theorem stepIntegratesBall : Obligations.StepIntegratesBall := by
  refine ⟨encodes_of_opcode .step rfl fun _ => rfl, fun s hw hregs => ?_⟩
  intro word spin coupled vy
  obtain ⟨-, -, -, hvyWidth, hspinWidth⟩ := stepBall_inWidth hregs.1
  obtain ⟨⟨-, -, hvxWidth, -, hspinWidth₀⟩, -⟩ := hregs
  have hspin : word s.ballStep.ball.spin = spin := ofInt_decaySpin hw hspinWidth₀
  have hcoupled : word (coupleSpin s.cfg.width s.ball.vx s.ball.vy s.ballStep.ball.spin) = coupled := by
    simp only [coupled, ← hspin]
    exact ofInt_coupleSpin hw _ _ hspinWidth
  have hvy : word s.ballStep.ball.vy = vy := by
    simp only [vy, ← hcoupled]
    exact ofInt_decayVy hw (coupleSpin_inWidth ..)
  have hpx : s.ballStep.ball.px = (word s.ball.px + (word s.ball.vx).sdiv 64).toInt :=
    integrate_eq_toInt hw _ hvxWidth
  have hpy : s.ballStep.ball.py = (word s.ball.py + (word s.ballStep.ball.vy).sdiv 64).toInt :=
    integrate_eq_toInt hw _ hvyWidth
  have hpos : 0 < s.cfg.width := by omega
  have hvyBack : (word s.ballStep.ball.vy).toInt = s.ballStep.ball.vy := toInt_ofInt_of_inWidth hpos hvyWidth
  have hspinBack : (word s.ballStep.ball.spin).toInt = s.ballStep.ball.spin := toInt_ofInt_of_inWidth hpos hspinWidth
  rw [exec_eq_effect_respond, ← hvy, ← hspin, ← hpx, ← hpy, hvyBack, hspinBack]
  rfl

/-! ### BOUNCE: the registers after a contact (R135) -/

theorem nudge_eq_toInt (w : Nat) (p : Side) (px : Int) :
    nudge w p px = (if p = .left then BitVec.ofInt w px + 128 else BitVec.ofInt w px - 128).toInt := by
  cases p with
  | left =>
    rw [if_pos rfl, nudge, ← toInt_ofInt_eq_wrapW, BitVec.ofInt_add]
    rfl
  | right =>
    rw [if_neg (by decide), nudge, ← toInt_ofInt_eq_wrapW, ofInt_sub]
    rfl

theorem contactSpin_eq_toInt (cfg : Config) (p : Side) (spin pv : Int) :
    contactSpin cfg p spin pv =
      (if p = .left then
        BitVec.ofInt cfg.width spin + BitVec.ofInt cfg.width cfg.spinGain * BitVec.ofInt cfg.width pv
      else BitVec.ofInt cfg.width spin - BitVec.ofInt cfg.width cfg.spinGain * BitVec.ofInt cfg.width pv).toInt := by
  cases p with
  | left =>
    rw [if_pos rfl, ← BitVec.ofInt_mul, ← BitVec.ofInt_add, toInt_ofInt_eq_wrapW, ← wrapW_add_wrapW]
    rfl
  | right =>
    rw [if_neg (by decide), ← BitVec.ofInt_mul, ← ofInt_sub, toInt_ofInt_eq_wrapW, ← wrapW_sub_wrapW]
    rfl

/-- The kick table by the eight offsets of the hit-box. -/
theorem kickMagAt_min {off : Int} (hlo : 0 ≤ off) (hhi : off < 8) (cfg : Config) :
    kickMagAt cfg (min off (7 - off)).toNat =
      if off = 0 ∨ off = 7 then cfg.kickMag0 else if off = 1 ∨ off = 6 then cfg.kickMag1
      else if off = 2 ∨ off = 5 then cfg.kickMag2 else cfg.kickMag3 := by
  interval_cases off <;> rfl

theorem ofInt_kickFor (cfg : Config) (off : Int) :
    BitVec.ofInt cfg.width (kickFor cfg off) =
      if off < 4 then -BitVec.ofInt cfg.width (kickMagAt cfg (min off (7 - off)).toNat)
      else BitVec.ofInt cfg.width (kickMagAt cfg (min off (7 - off)).toNat) := by
  unfold kickFor
  dsimp only
  split
  · rw [ofInt_wrapW, BitVec.ofInt_neg]
  · rfl

theorem ofInt_blendVy {w : Nat} (hw : 16 ≤ w) (vy kick : Int) :
    BitVec.ofInt w (blendVy w vy kick) = (3 * BitVec.ofInt w vy + BitVec.ofInt w kick).sdiv 4 := by
  have hsum : BitVec.ofInt w (wrapW w (wrapW w (3 * vy) + kick)) = 3 * BitVec.ofInt w vy + BitVec.ofInt w kick := by
    rw [wrapW_wrapW_add, ofInt_wrapW, BitVec.ofInt_add, BitVec.ofInt_mul]
    rfl
  rw [← hsum]
  exact ofInt_tdiv hw (inWidth_wrapW ..) (n := 4) (by decide)

theorem contactVy_eq_toInt {cfg : Config} (hw : 16 ≤ cfg.width) (off vy pv : Int) :
    contactVy cfg off vy pv =
      ((3 * BitVec.ofInt cfg.width vy + BitVec.ofInt cfg.width (kickFor cfg off)).sdiv 4 +
        BitVec.ofInt cfg.width cfg.englishGain * BitVec.ofInt cfg.width pv).toInt := by
  rw [← ofInt_blendVy hw, ← BitVec.ofInt_mul, ← BitVec.ofInt_add, toInt_ofInt_eq_wrapW, ← wrapW_add_wrapW]
  rfl

/-! ### BOUNCE: with and without contact (R135) -/

theorem hitOffset_eq (pad : Paddle) (b : Ball) : hitOffset pad b = b.py.tdiv 128 - (pad.pos / 16 - 4) := by
  rw [hitOffset, padY, asr_four]
  rfl

theorem exec_bounce_of_contact {p : Side} {s : State} (h : s.bounces p = true) :
    exec (.bounce p) s = .next { s with
      ball := bounceBall s.cfg p (s.pad p) s.ball
      resps := s.resps ++ [0x0001] } := by
  have heffect : effect s (.bounce p) = s.setBall (bounceBall s.cfg p (s.pad p) s.ball) := if_pos h
  have hresponse : responseWord s (.bounce p) = 0x0001 := congrArg outcomeBit h
  rw [exec_eq_effect_respond, heffect, hresponse]
  rfl

theorem exec_bounce_of_no_contact {p : Side} {s : State} (h : s.bounces p = false) :
    exec (.bounce p) s = .next { s with resps := s.resps ++ [0x0000] } := by
  have heffect : effect s (.bounce p) = s := if_neg (by rw [h]; decide)
  have hresponse : responseWord s (.bounce p) = 0x0000 := congrArg outcomeBit h
  rw [exec_eq_effect_respond, heffect, hresponse]
  rfl

/-- Settles O21: the hit test is the model's, and after a contact each register is its word, read back. -/
theorem bounceReflectsBall : Obligations.BounceReflectsBall := by
  refine ⟨encodes_of_opcode (.bounce .left) rfl fun w => ?_, fun p s hw => ?_⟩
  · rw [← sideField_eq_selectBit]
    rfl
  intro word off pv m kick
  have hoff : hitOffset (s.pad p) s.ball = off := hitOffset_eq ..
  have hhit : s.bounces p = true ↔ s.ball.px.tdiv 128 = (laneOf s.cfg p).toNat ∧ 0 ≤ off ∧ off < 8 := by
    rw [← hoff]
    exact bounceHits_iff ..
  refine ⟨fun hcontact => ?_, fun hmiss => ?_⟩
  · have hkick : word (kickFor s.cfg off) = kick := by
      obtain ⟨-, hlo, hhi⟩ := hcontact
      simp only [kick, m, ← kickMagAt_min hlo hhi]
      exact ofInt_kickFor ..
    have hvx : wrapW s.cfg.width (-s.ball.vx) = (-word s.ball.vx).toInt := by
      rw [← toInt_ofInt_eq_wrapW, BitVec.ofInt_neg]
    rw [exec_bounce_of_contact (hhit.2 hcontact), bounceBall, hoff, nudge_eq_toInt, hvx, contactVy_eq_toInt hw,
      contactSpin_eq_toInt, ← hkick]
  · exact exec_bounce_of_no_contact (Bool.eq_false_iff.2 (mt hhit.1 hmiss))

/-! ### BOUNCE does not hit twice (R135, corner case (a)) -/

theorem lane_toNat_pos {lane : BitVec 7} (h : lane ≠ 0) : 0 < lane.toNat := by
  rwa [Nat.pos_iff_ne_zero, ne_eq, ← BitVec.toNat_zero, BitVec.toNat_inj]

theorem pixelOf_eq_iff {lane : Int} (hlane : 0 < lane) (px : Int) :
    pixelOf px = lane ↔ 128 * lane ≤ px ∧ px < 128 * lane + 128 := by
  obtain ⟨hpos, hneg⟩ := tdiv_bounds px (n := 128) (by decide)
  have hdef : pixelOf px = tdiv px 128 := rfl
  omega

/-- The nudge takes the ball out of the lane's column. -/
theorem pixelOf_nudge_ne {w : Nat} (hw : 16 ≤ w) (p : Side) {lane : BitVec 7} (hlane : lane ≠ 0) {px : Int}
    (hpx : pixelOf px = lane.toNat) : pixelOf (nudge w p px) ≠ lane.toNat := by
  have hlo := lane_toNat_pos hlane
  have hhi : lane.toNat < 128 := lane.isLt
  rw [pixelOf_eq_iff (by omega)] at hpx
  rw [ne_eq, pixelOf_eq_iff (by omega)]
  cases p with
  | left =>
    have hnudge : nudge w .left px = px + 128 :=
      wrapW_of_range (v := px + 128) hw (by omega) (by omega)
    omega
  | right =>
    have hnudge : nudge w .right px = px - 128 :=
      wrapW_of_range (v := px - 128) hw (by omega) (by omega)
    omega

theorem bounces_of_pixelOf_ne {s : State} {p : Side} (h : pixelOf s.ball.px ≠ (laneOf s.cfg p).toNat) :
    s.bounces p = false := by
  rw [Bool.eq_false_iff, ne_eq, State.bounces, bounceHits_iff]
  exact fun hhit => h hhit.1

/-- Settles O22: after a contact the ball is out of the column, without one nothing has changed. -/
theorem bounceDoesNotRetrigger : Obligations.BounceDoesNotRetrigger := by
  intro p s hw hlane
  cases hhit : s.bounces p with
  | true =>
    obtain ⟨hpixel, -⟩ := (bounceHits_iff ..).1 hhit
    exact ⟨_, exec_bounce_of_contact hhit,
      exec_bounce_of_no_contact (bounces_of_pixelOf_ne (pixelOf_nudge_ne hw p hlane hpixel))⟩
  | false =>
    have hagain := (bounces_withRun s (s.resps ++ [0x0000]) s.actions s.ci p).trans hhit
    exact ⟨_, exec_bounce_of_no_contact hhit, exec_bounce_of_no_contact hagain⟩

/-! ### STEP and the lanes (R136) -/

/-- A velocity of at most 8191 moves a ball of the field by less than a pixel column. -/
theorem integrate_slow {w : Nat} (hw : 16 ≤ w) {px vx : Int} (hpx : 0 ≤ px ∧ px < 16384) (hvx : |vx| ≤ 8191) :
    |integrate w px vx - px| < 128 := by
  rw [abs_le] at hvx
  obtain ⟨hpos, hneg⟩ := tdiv_bounds vx (n := 64) (by decide)
  have hnowrap : wrapW w (px + tdiv vx 64) = px + tdiv vx 64 := wrapW_of_range hw (by omega) (by omega)
  rw [integrate_eq, hnowrap, abs_lt]
  omega

/-- A ball of the default configuration one subpixel left of a column, moving 129 subpixels a tick. -/
def fastBallAt (lane : BitVec 7) : State :=
  { State.reset with ball := ⟨128 * lane.toNat - 1, 0, 8256, 0, 0⟩ }

theorem fastBallAt_regsWf (lane : BitVec 7) : (fastBallAt lane).regsWf := by
  have hlane : lane.toNat < 128 := lane.isLt
  have hwidth : 16 ≤ (fastBallAt lane).cfg.width := le_refl 16
  have hreset : State.reset.regsWf := (resetWith_inv Config.default).1
  refine ⟨⟨inWidth_of_range hwidth ?_ ?_, inWidth_zero _, inWidth_of_range hwidth (v := 8256) (by decide) (by decide),
    inWidth_zero _, inWidth_zero _⟩, hreset.2⟩ <;>
  · dsimp only [fastBallAt]
    omega

/-- The fast ball lands right of the column. -/
theorem integrate_fast (lane : BitVec 7) : integrate 16 (128 * lane.toNat - 1) 8256 = 128 * lane.toNat + 128 := by
  have hlane : lane.toNat < 128 := lane.isLt
  have hmove : tdiv 8256 64 = 129 := rfl
  rw [integrate_eq, hmove, wrapW_of_range (by decide) (by omega) (by omega)]
  omega

/-- Settles O23: a slow ball moves by less than the width of a column, the fast one by 129 subpixels. -/
theorem slowBallCannotSkipLane : Obligations.SlowBallCannotSkipLane := by
  refine ⟨fun s lane hw hx hvx => ?slow, fun lane hlane => ?fast⟩
  case slow =>
    have hmove : |s.ballStep.ball.px - s.ball.px| < 128 := integrate_slow hw hx hvx
    refine ⟨s.ballStep.respond 0x0000, exec_eq_effect_respond .step s, hmove, ?_⟩
    rw [abs_lt] at hmove
    rw [State.respond_ball]
    omega
  case fast =>
    have hpos := lane_toNat_pos hlane
    have hbound : lane.toNat < 128 := lane.isLt
    refine ⟨fastBallAt lane, _, fastBallAt_regsWf lane, ?_, exec_eq_effect_respond .step _, ?_, ?_⟩
    · simp only [Ball.inFieldX, fastBallAt, xLimit]
      omega
    · simp only [fastBallAt]
      omega
    · exact (integrate_fast lane).ge

end Sys2Proof.Machine
end

section
/-! The decay of spin and vertical velocity under STEP (40_ball_physics.md R131): what one decay does, how a sequence of
STEPs iterates it, and how many STEPs the largest spin of 16 bits takes to settle. -/

namespace Sys2Proof.Machine

/-! ### One decay -/

/-- From `x` to `y` a value keeps its sign, falls in magnitude from `limit` on, and stays as it is below. -/
def Decays (limit x y : Int) : Prop :=
  (0 < x → 0 < y) ∧ (x < 0 → y < 0) ∧ (limit ≤ |x| → |y| < |x|) ∧ (|x| < limit → y = x)

/-- Taking a `d`-th part off a register decays it, and needs no wrapping. -/
theorem decays_sub_tdiv {w : Nat} (hw : 0 < w) {d : Int} (hd : 1 < d) {x : Int} (hx : inWidth w x) :
    Decays d x (wrapW w (x - tdiv x d)) := by
  obtain ⟨hlo, hhi⟩ := hx
  obtain ⟨hpos, hneg⟩ := tdiv_bounds x (n := d) (by omega)
  rcases le_or_gt 0 x with hx | hx
  · obtain ⟨hq, hqle, hlt⟩ := hpos hx
    have hhalf : 2 * tdiv x d ≤ x := by nlinarith
    have hzero : x < d → tdiv x d = 0 := fun h => by nlinarith
    have hone : d ≤ x → 0 < tdiv x d := fun h => by nlinarith
    rw [wrapW_of_inWidth hw (by omega) (by omega)]
    refine ⟨by omega, by omega, ?_, ?_⟩ <;> rw [abs_of_nonneg hx]
    · rw [abs_of_nonneg (by omega)]
      omega
    · omega
  · obtain ⟨hq, hleq, hlt⟩ := hneg hx.le
    have hhalf : x ≤ 2 * tdiv x d := by nlinarith
    have hzero : -d < x → tdiv x d = 0 := fun h => by nlinarith
    have hone : x ≤ -d → tdiv x d < 0 := fun h => by nlinarith
    rw [wrapW_of_inWidth hw (by omega) (by omega)]
    refine ⟨by omega, by omega, ?_, ?_⟩ <;> rw [abs_of_neg hx]
    · rw [abs_of_nonpos (by omega)]
      omega
    · omega

theorem decays_decaySpin {w : Nat} (hw : 0 < w) {spin : Int} (h : inWidth w spin) :
    Decays 384 spin (decaySpin w spin) := decays_sub_tdiv hw (by decide) h

theorem decays_decayVy {w : Nat} (hw : 0 < w) {vy : Int} (h : inWidth w vy) : Decays 192 vy (decayVy w vy) :=
  decays_sub_tdiv hw (by decide) h

/-- A spin of less than 48 does not couple into the vertical velocity. -/
theorem coupleSpin_of_small {w : Nat} (hw : 0 < w) (vx : Int) {vy spin : Int} (hvy : inWidth w vy)
    (hspin : |spin| ≤ 47) : coupleSpin w vx vy spin = vy := by
  have hnone : tdiv spin spinCoupleDiv = 0 := by
    rw [abs_le] at hspin
    obtain ⟨hpos, hneg⟩ := tdiv_bounds spin (n := 48) (by decide)
    have hdiv : spinCoupleDiv = 48 := rfl
    rw [hdiv]
    omega
  rw [coupleSpin, hnone, Int.add_zero, Int.sub_zero, ite_self, wrapW_of_inWidth hw hvy.1 hvy.2]

theorem decaySpin_of_small {w : Nat} (hw : 16 ≤ w) {spin : Int} (h : |spin| ≤ 383) : decaySpin w spin = spin := by
  have hrange := abs_le.1 h
  have hwidth : inWidth w spin := inWidth_of_range hw (by omega) (by omega)
  obtain ⟨-, -, -, hstays⟩ := decays_decaySpin (by omega : 0 < w) hwidth
  exact hstays (by omega)

/-! ### A sequence of STEPs -/

/-- STEPs keep the configuration, so that the spin is the iterate of its decay. -/
theorem repeatCommand_step (n : Nat) (s : State) :
    ∃ t, repeatCommand .step n s = .next t ∧ t.ball.spin = (decaySpin s.cfg.width)^[n] s.ball.spin := by
  induction n generalizing s with
  | zero => exact ⟨s, rfl, rfl⟩
  | succ n ih => exact ih (s.ballStep.respond 0x0000)

/-- Every spin reaches a value below 384, since its magnitude falls until then. -/
theorem decaySpin_reaches_small {w : Nat} (hw : 0 < w) {spin : Int} (h : inWidth w spin) :
    ∃ N, |(decaySpin w)^[N] spin| ≤ 383 := by
  induction hm : spin.natAbs using Nat.strong_induction_on generalizing spin with
  | _ m ih =>
    rcases le_or_gt |spin| 383 with hsmall | hlarge
    · exact ⟨0, hsmall⟩
    · obtain ⟨-, -, hfalls, -⟩ := decays_decaySpin hw h
      have hless : (decaySpin w spin).natAbs < m := by
        have hfall := hfalls (by omega)
        rw [Int.abs_eq_natAbs, Int.abs_eq_natAbs] at hfall
        omega
      obtain ⟨N, hN⟩ := ih _ hless (inWidth_wrapW w _ : inWidth w (decaySpin w spin)) rfl
      exact ⟨N + 1, hN⟩

/-- A spin that has reached a value below 384 stays there. -/
theorem decaySpin_iterate_of_le {w : Nat} (hw : 16 ≤ w) {N n : Nat} (hn : N ≤ n) {spin : Int}
    (h : |(decaySpin w)^[N] spin| ≤ 383) : (decaySpin w)^[n] spin = (decaySpin w)^[N] spin := by
  obtain ⟨k, rfl⟩ := Nat.exists_eq_add_of_le' hn
  rw [Function.iterate_add_apply, Function.iterate_fixed (decaySpin_of_small hw h)]

/-! ### The number of STEPs from 32767 to 383 -/

/-- While a spin is between `384 * q` and `384 * q + 383`, each decay takes `q` off it. -/
theorem decaySpin_iterate_level {w : Nat} (hw : 16 ≤ w) {q spin k : Nat} (hspin : spin < 32768)
    (hlo : 384 * q + k * q ≤ spin + q) (hhi : spin < 384 * q + 384) :
    (decaySpin w)^[k] (spin : Int) = (spin - k * q : Nat) := by
  induction k with
  | zero => simp
  | succ k ih =>
    rw [Nat.succ_mul k q] at hlo ⊢
    have hquotient : tdiv ((spin - k * q : Nat) : Int) 384 = q := by
      rw [tdiv_of_nonneg (by omega)]
      omega
    rw [Function.iterate_succ_apply', ih (by omega), decaySpin_eq, hquotient, wrapW_of_range hw (by omega) (by omega)]
    omega

/-- How many steps of `q` take a spin below `384 * q`. -/
def levelSteps (q spin : Nat) : Nat := (spin - 384 * q) / q + 1

/-- The last of these steps is the first that ends below `384 * q`. -/
theorem levelSteps_bounds {q spin : Nat} (hq : 0 < q) (hlo : 384 * q ≤ spin) :
    384 * q + levelSteps q spin * q ≤ spin + q ∧ spin < 384 * q + levelSteps q spin * q := by
  have hle := Nat.div_mul_le_self (spin - 384 * q) q
  have hlt := Nat.lt_div_mul_add (a := spin - 384 * q) hq
  rw [levelSteps, Nat.succ_mul ((spin - 384 * q) / q) q]
  omega

/-- The steps done and the spin reached, taken down through the levels of quotient `n + 1` to 2. -/
def descend : Nat → Nat → Nat → Nat × Nat
  | 0, steps, spin => (steps, spin)
  | n + 1, steps, spin =>
    descend n (steps + levelSteps (n + 2) spin) (spin - levelSteps (n + 2) spin * (n + 2))

/-- `descend` tells where so many decays lead. -/
theorem decaySpin_iterate_descend {w : Nat} (hw : 16 ≤ w) {start : Int} (n : Nat) {steps spin : Nat}
    (hstart : (decaySpin w)^[steps] start = spin) (hspin : spin < 32768) (hlo : 384 * (n + 1) ≤ spin)
    (hhi : spin < 384 * (n + 1) + 384) :
    (decaySpin w)^[(descend n steps spin).1] start = (descend n steps spin).2 := by
  induction n generalizing steps spin with
  | zero => exact hstart
  | succ n ih =>
    obtain ⟨hreach, hbelow⟩ := levelSteps_bounds (by omega : 0 < n + 2) hlo
    refine ih ?_ (by omega) (by omega) (by omega)
    rw [Nat.add_comm, Function.iterate_add_apply, hstart]
    exact decaySpin_iterate_level hw hspin hreach hhi

theorem descend_largest : descend 84 0 32767 = (1541, 767) := by decide

/-- The largest spin of 16 bits is 767 after 1541 STEPs and falls by 1 in each of the next 384. -/
theorem decaySpin_iterate_largest {w : Nat} (hw : 16 ≤ w) {k : Nat} (hk : k ≤ 384) :
    (decaySpin w)^[1541 + k] 32767 = 767 - k := by
  have hdescent := decaySpin_iterate_descend hw (start := 32767) 84 (steps := 0) (spin := 32767) rfl (by decide)
    (by decide) (by decide)
  rw [descend_largest] at hdescent
  rw [Nat.add_comm, Function.iterate_add_apply, hdescent,
    decaySpin_iterate_level hw (q := 1) (by decide) (by omega) (by decide)]
  omega

/-! ### STEP on the state (R131) -/

/-- The decay of the spin, and of the vertical velocity without coupling, in one STEP. -/
theorem ballStep_decays {s : State} (hw : s.widthOk) (hregs : s.regsWf) :
    Decays 384 s.ball.spin s.ballStep.ball.spin ∧
      (|s.ball.spin| ≤ 47 → Decays 192 s.ball.vy s.ballStep.ball.vy) := by
  obtain ⟨⟨-, -, -, hvy, hspin⟩, -⟩ := hregs
  have hpos : 0 < s.cfg.width := by omega
  refine ⟨decays_decaySpin hpos hspin, fun hsmall => ?_⟩
  have hkept : decaySpin s.cfg.width s.ball.spin = s.ball.spin := decaySpin_of_small hw (by omega)
  have huncoupled : s.ballStep.ball.vy = decayVy s.cfg.width s.ball.vy := by
    refine congrArg (decayVy s.cfg.width) ?_
    rw [hkept, coupleSpin_of_small hpos _ hvy hsmall]
  rw [huncoupled]
  exact decays_decayVy hpos hvy

/-- Settles O20: one decay, the value that iterated decays end at, and the descent from 32767. -/
theorem spinDecaysAndSettles : Obligations.SpinDecaysAndSettles := by
  refine ⟨fun s hw hregs => ?decay, fun s hw hregs => ?settle, fun s hw hlargest => ⟨?before, ?settled⟩⟩
  case decay =>
    obtain ⟨⟨hpos, hneg, hfalls, hstays⟩, hvy⟩ := ballStep_decays hw hregs
    refine ⟨_, exec_eq_effect_respond .step s, hpos, hneg, hfalls, fun h => hstays (by omega), fun hsmall => ?_⟩
    obtain ⟨hvyPos, hvyNeg, hvyFalls, hvyStays⟩ := hvy hsmall
    exact ⟨hvyPos, hvyNeg, hvyFalls, fun h => hvyStays (by omega)⟩
  case settle =>
    obtain ⟨⟨-, -, -, -, hspin⟩, -⟩ := hregs
    obtain ⟨N, hN⟩ := decaySpin_reaches_small (by omega : 0 < s.cfg.width) hspin
    refine ⟨_, hN, N, fun n hn => ?_⟩
    obtain ⟨t, hrun, ht⟩ := repeatCommand_step n s
    exact ⟨t, hrun, ht.trans (decaySpin_iterate_of_le hw hn hN)⟩
  case before =>
    obtain ⟨t, hrun, ht⟩ := repeatCommand_step 1924 s
    have hspin := decaySpin_iterate_largest hw (k := 383) (by decide)
    refine ⟨t, hrun, ?_⟩
    rw [ht, hlargest, hspin]
    decide
  case settled =>
    obtain ⟨t, hrun, ht⟩ := repeatCommand_step 1925 s
    have hspin := decaySpin_iterate_largest hw (k := 384) (by decide)
    refine ⟨t, hrun, ?_⟩
    rw [ht, hlargest, hspin]
    decide

end Sys2Proof.Machine
end

section
/-! The rules of 40_ball_physics.md for WALLS, TICK and SERVE (R140 to R155): the horizontal exit and its point, the
vertical reflection, and the two commands that are made of others. -/

namespace Sys2Proof.Machine

/-! ### The serve position (R140, R155) -/

theorem serveBall_left (cfg : Config) (b : Ball) :
    serveBall cfg .left b = ⟨wrapW cfg.width cfg.serveXLeft, b.py, wrapW cfg.width cfg.initSpeed, 0, 0⟩ := rfl

/-- A register of at least 16 bits holds SERVE_X_RIGHT (D1). -/
theorem serveBall_right {cfg : Config} (hw : 16 ≤ cfg.width) (b : Ball) :
    serveBall cfg .right b = ⟨16128, b.py, wrapW cfg.width (-cfg.initSpeed), 0, 0⟩ := by
  have hpx : wrapW cfg.width serveXRight = 16128 := wrapW_of_range hw (by decide) (by decide)
  rw [← hpx]
  rfl

/-! ### WALLS: the horizontal part (R140, 42_score.md R185) -/

/-- The two registers a horizontal exit writes: the ball, and the scorer's score unless a point is pending. -/
theorem registerPoint_setBall (s : State) (b : Ball) (p : Side) :
    (s.setBall b).registerPoint p = (s.setBall b).setScore p
      (if pend s.score0 = false ∧ pend s.score1 = false then scorePoint (s.score p) else s.score p) := by
  have hplay : (s.setBall b).playing = true ↔ pend s.score0 = false ∧ pend s.score1 = false := State.playing_iff _
  rcases (s.setBall b).registerPoint_cases p with ⟨h, e⟩ | ⟨h, e⟩ <;> rw [e]
  · rw [if_pos (hplay.1 h)]
    cases p <;> rfl
  · rw [if_neg (by rw [← hplay, h]; decide)]
    cases p <;> rfl

theorem State.horizontalExit_of_left {s : State} (hw : s.widthOk) (hpx : s.ball.px < 0) :
    s.horizontalExit = { s with
      ball := ⟨16128, s.ball.py, wrapW s.cfg.width (-s.cfg.initSpeed), 0, 0⟩
      score1 := if pend s.score0 = false ∧ pend s.score1 = false then scorePoint s.score1 else s.score1 } := by
  have hscorer : exitScorer s.ball.px = some .right := if_pos hpx
  simp only [State.horizontalExit, hscorer, registerPoint_setBall, serveBall_right hw]
  rfl

theorem State.horizontalExit_of_right {s : State} (hpx : 16384 ≤ s.ball.px) :
    s.horizontalExit = { s with
      ball := ⟨wrapW s.cfg.width s.cfg.serveXLeft, s.ball.py, wrapW s.cfg.width s.cfg.initSpeed, 0, 0⟩
      score0 := if pend s.score0 = false ∧ pend s.score1 = false then scorePoint s.score0 else s.score0 } := by
  have hscorer : exitScorer s.ball.px = some .left := by
    rw [exitScorer, if_neg (by omega), if_pos hpx]
  simp only [State.horizontalExit, hscorer, registerPoint_setBall, serveBall_left]
  rfl

theorem State.horizontalExit_of_inFieldX {s : State} (hpx : s.ball.inFieldX) : s.horizontalExit = s := by
  obtain ⟨hlo, hhi⟩ := hpx
  have hscorer : exitScorer s.ball.px = none := by
    rw [exitScorer, if_neg (by omega), if_neg (by omega)]
  simp only [State.horizontalExit, hscorer]

/-! ### WALLS: the vertical part (R140) -/

theorem wallBounces_iff (py : Int) : wallBounces py = true ↔ py < 0 ∨ 8192 ≤ py := by
  simp [wallBounces, yLimit]

theorem reflectBall_of_top {w : Nat} {b : Ball} (hpy : b.py < 0) :
    reflectBall w b = { b with py := wrapW w (-b.py), vy := wrapW w (-b.vy) } := if_pos hpy

/-- The folded position is a row of the field, which needs no wrapping (D1). -/
theorem reflectBall_of_bottom {w : Nat} (hw : 16 ≤ w) {b : Ball} (hpy : 8192 ≤ b.py) :
    reflectBall w b = { b with py := 8191 - b.py % 8192, vy := wrapW w (-b.vy) } := by
  have hnowrap : wrapW w (8191 - b.py % 8192) = 8191 - b.py % 8192 := wrapW_of_range hw (by omega) (by omega)
  rw [reflectBall, if_neg (by omega), if_pos hpy, ← hnowrap]
  rfl

theorem reflectBall_of_inFieldY {w : Nat} {b : Ball} (hpy : b.inFieldY) : reflectBall w b = b := by
  obtain ⟨hlo, hhi⟩ := hpy
  rw [reflectBall, if_neg (by omega), if_neg (by omega)]

/-- The vertical part of WALLS and the response, on what the horizontal part left. -/
theorem State.walls_respond {s : State} (hw : s.widthOk) :
    s.walls.respond (outcomeBit (wallBounces s.ball.py)) =
      if s.ball.py < 0 then
        { s.horizontalExit with
          ball := { s.horizontalExit.ball with
            py := wrapW s.cfg.width (-s.ball.py)
            vy := wrapW s.cfg.width (-s.horizontalExit.ball.vy) }
          resps := s.resps ++ [0x0001] }
      else if 8192 ≤ s.ball.py then
        { s.horizontalExit with
          ball := { s.horizontalExit.ball with
            py := 8191 - s.ball.py % 8192
            vy := wrapW s.cfg.width (-s.horizontalExit.ball.vy) }
          resps := s.resps ++ [0x0001] }
      else { s.horizontalExit with resps := s.resps ++ [0x0000] } := by
  have hpy := s.horizontalExit_py
  have hbit := wallBounces_iff s.ball.py
  simp only [State.walls, State.respond, State.setBall, State.horizontalExit_cfg, State.horizontalExit_resps]
  split_ifs with htop hbottom
  · rw [reflectBall_of_top (by omega), hbit.2 (.inl htop), hpy]
    rfl
  · rw [reflectBall_of_bottom hw (by omega), hbit.2 (.inr hbottom), hpy]
    rfl
  · have hfield : s.horizontalExit.ball.inFieldY := by
      simp only [Ball.inFieldY, yLimit, hpy]
      omega
    have hnobounce : wallBounces s.ball.py = false := by
      rw [Bool.eq_false_iff, ne_eq, hbit]
      omega
    rw [reflectBall_of_inFieldY hfield, hnobounce]
    rfl

/-- Settles O24: the three horizontal cases give the state that the vertical part works on. -/
theorem wallsResolveExitsAndReflections : Obligations.WallsResolveExitsAndReflections := by
  refine ⟨encodes_of_opcode .walls rfl fun _ => rfl, fun s hw _ => ?_⟩
  intro playing wrap h
  have hexit : s.horizontalExit = h := by
    rcases exitScorer_cases s.ball.px with ⟨hleft, -⟩ | ⟨hright, -⟩ | ⟨hlo, hhi, -⟩
    · exact (State.horizontalExit_of_left hw hleft).trans (if_pos hleft).symm
    · exact (State.horizontalExit_of_right hright).trans ((if_neg (by omega)).trans (if_pos hright)).symm
    · exact (State.horizontalExit_of_inFieldX ⟨hlo, hhi⟩).trans ((if_neg (by omega)).trans (if_neg (by omega))).symm
  rw [← hexit]
  exact congrArg Host.Outcome.next (State.walls_respond hw)

/-! ### What WALLS guarantees (R141) -/

/-- A reflected velocity has the other sign, but for 0 and the least register value. -/
theorem wrapW_neg_sign {w : Nat} (hw : 0 < w) {v : Int} (hv : inWidth w v) :
    (0 < v → wrapW w (-v) < 0) ∧ (v < 0 → v ≠ -(2 ^ (w - 1)) → 0 < wrapW w (-v)) := by
  obtain ⟨hlo, hhi⟩ := hv
  constructor
  · intro hpos
    rw [wrapW_of_inWidth hw (by omega) (by omega)]
    omega
  · intro hneg hmin
    rw [wrapW_of_inWidth hw (by omega) (by omega)]
    omega

/-- A ball beyond a wall has its velocity negated. -/
theorem reflectBall_vy {w : Nat} {b : Ball} (hpy : b.py < 0 ∨ 8192 ≤ b.py) :
    (reflectBall w b).vy = wrapW w (-b.vy) := by
  rcases reflectBall_cases w b with ⟨-, e⟩ | ⟨-, e⟩ | ⟨hlo, hhi, -⟩
  · rw [e]
  · rw [e]
  · omega

/-- A ball with VY 0 keeps it, reflected or not. -/
theorem reflectBall_vy_zero {w : Nat} {b : Ball} (hvy : b.vy = 0) : (reflectBall w b).vy = 0 := by
  rcases reflectBall_cases w b with ⟨-, e⟩ | ⟨-, e⟩ | ⟨-, -, e⟩ <;> simp [e, hvy]

/-- The vertical part of WALLS writes PY and VY only. -/
theorem reflectBall_keeps (w : Nat) (b : Ball) :
    (reflectBall w b).px = b.px ∧ (reflectBall w b).vx = b.vx ∧ (reflectBall w b).spin = b.spin := by
  rcases reflectBall_cases w b with ⟨-, e⟩ | ⟨-, e⟩ | ⟨-, -, e⟩ <;> simp [e]

/-- Settles O25: (a) the reflection lands in the field and negates VY, (b) the vertical part keeps the serve an exit has
left. -/
theorem wallReflectionBringsBallBack : Obligations.WallReflectionBringsBallBack := by
  refine ⟨fun s hw hregs hpy => ?reflection, fun s hw hout => ?serve⟩
  case reflection =>
    have hout : s.ball.py < 0 ∨ 8192 ≤ s.ball.py := by omega
    refine ⟨_, exec_eq_effect_respond .walls s, State.walls_inFieldY hw (by omega), ?_, fun hx => ?_⟩
    · have hresponse : responseWord s .walls = 0x0001 := congrArg outcomeBit ((wallBounces_iff _).2 hout)
      rw [State.respond_resps, effect_resps, hresponse]
    · have hvy : s.walls.ball.vy = wrapW s.cfg.width (-s.ball.vy) := by
        rw [State.walls_ball, State.horizontalExit_of_inFieldX hx, reflectBall_vy hout]
      obtain ⟨⟨-, -, -, hvyWidth, -⟩, -⟩ := hregs
      have hflip := wrapW_neg_sign (by omega : 0 < s.cfg.width) hvyWidth
      rwa [← hvy] at hflip
  case serve =>
    have hkeeps := reflectBall_keeps s.horizontalExit.cfg.width s.horizontalExit.ball
    obtain ⟨hpx, hvx, hspin⟩ := hkeeps
    have hvy := reflectBall_vy_zero (w := s.horizontalExit.cfg.width) (b := s.horizontalExit.ball)
    rw [← State.walls_ball] at hpx hvx hspin hvy
    rcases exitScorer_cases s.ball.px with ⟨hleft, -⟩ | ⟨hright, -⟩ | ⟨hlo, hhi, -⟩
    · rw [State.horizontalExit_of_left hw hleft] at hpx hvx hspin hvy
      exact ⟨_, exec_eq_effect_respond .walls s, hvy rfl, hspin, fun _ => ⟨hpx, hvx⟩, fun h => by omega⟩
    · rw [State.horizontalExit_of_right hright] at hpx hvx hspin hvy
      exact ⟨_, exec_eq_effect_respond .walls s, hvy rfl, hspin, fun h => by omega, fun _ => ⟨hpx, hvx⟩⟩
    · exact absurd ⟨hlo, hhi⟩ hout

/-! ### TICK (R150) -/

/-- Settles O26: the four commands are blind to the responses given before them, so the responses of the first three can
be discarded. -/
theorem tickIsItsFourCommands : Obligations.TickIsItsFourCommands := by
  refine ⟨encodes_of_opcode .tick rfl fun _ => rfl, fun s => ?_⟩
  refine ⟨_, _, _, _, exec_eq_effect_respond .step s, exec_withRun (.bounce .left) s.ballStep .., exec_withRun ..,
    exec_withRun .., ?_, ?_⟩
  · rw [exec_eq_effect_respond, ← effect_keeps_run s .tick]
    rfl
  · rintro r rest hact hen rfl
    have haccept : acceptTick (r.take rest) = effect (r.take rest) .tick := if_pos hen
    rw [step_tickRequest hact, haccept, ← effect_keeps_run]
    rfl

/-! ### SERVE (R155) -/

/-- The ball that SERVE places, for the side whose point is pending. -/
theorem State.serve_ball {s : State} (hw : s.widthOk) :
    s.serve.ball =
      if pend s.score1 then ⟨16128, wrapW s.cfg.width s.cfg.serveY, wrapW s.cfg.width (-s.cfg.initSpeed), 0, 0⟩
      else ⟨wrapW s.cfg.width s.cfg.serveXLeft, wrapW s.cfg.width s.cfg.serveY, wrapW s.cfg.width s.cfg.initSpeed,
        0, 0⟩ := by
  unfold State.serve State.server
  split_ifs
  · rw [serveBall_right hw]
  · rfl

/-- Settles O29: the ball by the pending point, the other registers as written. -/
theorem serveConsumesPoint : Obligations.ServeConsumesPoint := by
  refine ⟨encodes_of_opcode .serve rfl fun _ => rfl, fun s hw _ => ?_⟩
  intro wrap
  rw [exec_eq_effect_respond, ← State.serve_ball hw]
  rfl

end Sys2Proof.Machine
end

section
/-! The paddle tracker (41_paddle_tracker.md R171 to R173): what a sample does to a paddle, in integers and in words, and
where the smoothed velocity settles. -/

namespace Sys2Proof.Machine

/-! ### One sample (R171) -/

/-- A register of at least 16 bits takes the raw sample as it is (R91, D1). -/
theorem signedImm_eq_toInt {w : Nat} (hw : 16 ≤ w) (raw : Word) : signedImm w raw = raw.toInt :=
  wrapW_of_range hw (BitVec.le_toInt raw) (BitVec.toInt_lt (x := raw))

/-- SETY writes the one paddle; it responds nothing. -/
theorem exec_sety {s : State} (hw : s.widthOk) (p : Side) (raw : Word) :
    exec (.sety p raw) s =
      .next ((s.setPad p (samplePaddle s.cfg.width (s.pad p) raw.toInt)).respond 0x0000) := by
  rw [exec_eq_effect_respond, ← signedImm_eq_toInt hw]
  rfl

@[simp] theorem State.respond_pad (s : State) (r : Word) (p : Side) : (s.respond r).pad p = s.pad p := by
  cases p <;> rfl

/-- The state after SETY, as far as the next sample can tell. -/
theorem exec_sety_pad {s : State} (hw : s.widthOk) (p : Side) (raw : Word) :
    ∃ t, exec (.sety p raw) s = .next t ∧ t.cfg = s.cfg ∧ t.pad p = samplePaddle s.cfg.width (s.pad p) raw.toInt := by
  refine ⟨_, exec_sety hw p raw, ?_, ?_⟩
  · rw [State.respond_cfg, State.setPad_cfg]
  · rw [State.respond_pad, State.pad_setPad, if_pos rfl]

/-- The smoother blends the old velocity with the step of the samples as BOUNCE blends VY with the kick (R128, R135). -/
theorem samplePaddle_vel (w : Nat) (pad : Paddle) (raw : Int) :
    (samplePaddle w pad raw).vel = wrapW w (blendVy w pad.vel (wrapW w (raw - pad.pos))) := by
  rw [samplePaddle, blendVy]

/-- The smoothed velocity is written wrapped, so that it is the quotient of words, read back. -/
theorem samplePaddle_eq_toInt {w : Nat} (hw : 16 ≤ w) (pad : Paddle) (raw : Int) :
    samplePaddle w pad raw =
      ⟨raw, ((3 * BitVec.ofInt w pad.vel + (BitVec.ofInt w raw - BitVec.ofInt w pad.pos)).sdiv 4).toInt⟩ := by
  have hvel : (samplePaddle w pad raw).vel =
      ((3 * BitVec.ofInt w pad.vel + (BitVec.ofInt w raw - BitVec.ofInt w pad.pos)).sdiv 4).toInt := by
    rw [samplePaddle_vel, ← toInt_ofInt_eq_wrapW, ofInt_blendVy hw, ofInt_wrapW, ofInt_sub]
  rw [← hvel]
  rfl

/-- Settles O30: each side's paddle is the sampled one in words, and the rest of the state is kept. -/
theorem setySmoothsVelocity : Obligations.SetySmoothsVelocity := by
  refine ⟨encodes_of_opcode (.sety .left 0) rfl fun w => ?operands, fun p raw s hw => ?sample⟩
  case operands =>
    rw [← sideField_eq_selectBit]
    rfl
  case sample =>
    intro word after
    have hafter : samplePaddle s.cfg.width (s.pad p) raw.toInt = after (s.pad p) := samplePaddle_eq_toInt hw ..
    rw [exec_sety hw, hafter]
    cases p <;> rfl

/-! ### GETY (R172) -/

/-- Settles O31: the response is the word of the row, and a row of 16 bits is read back from its word. -/
theorem getyRespondsPixelRow : Obligations.GetyRespondsPixelRow := by
  refine ⟨encodes_of_opcode (.gety .left) rfl fun w => ?operands, fun p s hrow => ?row⟩
  case operands =>
    rw [← sideField_eq_selectBit]
    rfl
  case row =>
    refine ⟨signedWord (padY (s.pad p)), ?_, exec_eq_effect_respond (.gety p) s⟩
    rw [padY, asr_four]
    exact toInt_ofInt_of_inWidth (by decide) hrow

/-! ### The smoother without wrapping (R173) -/

/-- The velocity after a sample `d` above the position, when nothing wraps. -/
def smooth (d v : Int) : Int := tdiv (3 * v + d) 4

theorem smooth_of_nonneg {d v : Int} (hd : 0 ≤ d) (hv : 0 ≤ v) : smooth d v = (3 * v + d) / 4 :=
  tdiv_of_nonneg (by omega) 4

/-- A ramp down is the mirror image of a ramp up. -/
theorem smooth_neg (d v : Int) : smooth (-d) (-v) = -smooth d v := by
  have hsum : 3 * -v + -d = -(3 * v + d) := by ring
  rw [smooth, hsum]
  exact Int.neg_tdiv ..

/-- A quarter of a register's value fits the register. -/
theorem tdiv_four_inWidth {w : Nat} {x : Int} (hx : inWidth w x) : inWidth w (tdiv x 4) := by
  obtain ⟨hlo, hhi⟩ := hx
  obtain ⟨hpos, hneg⟩ := tdiv_bounds x (n := 4) (by decide)
  exact ⟨by omega, by omega⟩

/-- When the sum of the rule fits its register, the smoother does not wrap. -/
theorem samplePaddle_vel_of_inWidth {w : Nat} (hw : 0 < w) {pad : Paddle} {raw d : Int}
    (hdelta : wrapW w (raw - pad.pos) = d) (hfits : inWidth w (3 * pad.vel + d)) :
    (samplePaddle w pad raw).vel = smooth d pad.vel := by
  have hquotient := tdiv_four_inWidth hfits
  rw [samplePaddle_vel, hdelta, blendVy, wrapW_wrapW_add, wrapW_of_inWidth hw hfits.1 hfits.2,
    wrapW_of_inWidth hw hquotient.1 hquotient.2]
  rfl

/-! ### Constant samples (R173 (a)) -/

theorem smooth_zero_natAbs (v : Int) : (smooth 0 v).natAbs = 3 * v.natAbs / 4 := by
  rw [smooth, tdiv, Int.natAbs_tdiv, Int.add_zero, Int.natAbs_mul]
  rfl

/-- Three constant samples at least halve the velocity. -/
theorem smooth_zero_iterate_eq_zero {k n : Nat} (hn : 3 * k ≤ n) {v : Int} (hv : v.natAbs < 2 ^ k) :
    (smooth 0)^[n] v = 0 := by
  induction k generalizing n v with
  | zero =>
    have hzero : v = 0 := by omega
    rw [hzero]
    exact Function.iterate_fixed rfl n
  | succ k ih =>
    obtain ⟨m, rfl⟩ := Nat.exists_eq_add_of_le' (show 3 ≤ n by omega)
    have hfirst := smooth_zero_natAbs v
    have hsecond := smooth_zero_natAbs (smooth 0 v)
    have hthird := smooth_zero_natAbs (smooth 0 (smooth 0 v))
    have hhalf : (smooth 0 (smooth 0 (smooth 0 v))).natAbs < 2 ^ k := by omega
    exact ih (n := m) (v := smooth 0 (smooth 0 (smooth 0 v))) (by omega) hhalf

/-- After any sample the smoothed velocity is at most a quarter of the register's range. -/
theorem abs_samplePaddle_vel_le {w : Nat} (hw : 0 < w) (pad : Paddle) (raw : Int) :
    |4 * (samplePaddle w pad raw).vel| ≤ 2 ^ (w - 1) := by
  have hsum := inWidth_wrapW w (wrapW w (3 * pad.vel) + wrapW w (raw - pad.pos))
  have hquotient := tdiv_four_inWidth hsum
  obtain ⟨hlo, hhi⟩ := hsum
  obtain ⟨hpos, hneg⟩ := tdiv_bounds (wrapW w (wrapW w (3 * pad.vel) + wrapW w (raw - pad.pos))) (n := 4) (by decide)
  rw [samplePaddle_vel, blendVy, wrapW_of_inWidth hw hquotient.1 hquotient.2, abs_le]
  exact ⟨by omega, by omega⟩

/-- Samples equal to the position keep it and iterate the smoother with step 0. -/
theorem repeatCommand_sety {p : Side} {raw : Word} (n : Nat) {s : State} (hw : s.widthOk)
    (hpos : (s.pad p).pos = raw.toInt) (hvel : |4 * (s.pad p).vel| ≤ 2 ^ (s.cfg.width - 1)) :
    ∃ t, repeatCommand (.sety p raw) n s = .next t ∧ t.pad p = ⟨raw.toInt, (smooth 0)^[n] (s.pad p).vel⟩ := by
  induction n generalizing s with
  | zero => exact ⟨s, rfl, by rw [← hpos]; rfl⟩
  | succ n ih =>
    obtain ⟨t, hrun, hcfg, hpad⟩ := exec_sety_pad hw p raw
    obtain ⟨hlo, hhi⟩ := abs_le.1 hvel
    have hroom := two_pow_of_width hw
    have hdelta : wrapW s.cfg.width (raw.toInt - (s.pad p).pos) = 0 := by rw [hpos, Int.sub_self, wrapW_zero]
    have hnext := samplePaddle_vel_of_inWidth (by omega) hdelta ⟨by omega, by omega⟩
    have hbound := abs_samplePaddle_vel_le (by omega : 0 < s.cfg.width) (s.pad p) raw.toInt
    rw [← hpad] at hnext
    rw [← hpad, ← hcfg] at hbound
    rw [repeatCommand, hrun, Function.iterate_succ_apply, ← hnext]
    exact ih (by rwa [State.widthOk, hcfg]) (by rw [hpad]; rfl) hbound

/-- The first sample leaves a velocity of less than `2^(W - 1)`, and every three after it halve it. -/
theorem constant_samples_settle {p : Side} {raw : Word} {s : State} (hw : s.widthOk) {n : Nat}
    (hn : 3 * s.cfg.width ≤ n) :
    ∃ t, repeatCommand (.sety p raw) n s = .next t ∧ t.pad p = ⟨raw.toInt, 0⟩ := by
  obtain ⟨m, rfl⟩ := Nat.exists_eq_add_of_le' (show 1 ≤ n by omega)
  obtain ⟨t, hrun, hcfg, hpad⟩ := exec_sety_pad hw p raw
  have hbound := abs_samplePaddle_vel_le (by omega : 0 < s.cfg.width) (s.pad p) raw.toInt
  rw [← hpad, ← hcfg] at hbound
  rw [← hcfg] at hn
  have hbits : (t.pad p).vel.natAbs < 2 ^ (t.cfg.width - 1) := by
    have hpow : ((2 ^ (t.cfg.width - 1) : Nat) : Int) = 2 ^ (t.cfg.width - 1) := by push_cast; rfl
    have hroom : 0 < 2 ^ (t.cfg.width - 1) := Nat.two_pow_pos _
    rw [abs_le, ← hpow] at hbound
    omega
  have hzero := smooth_zero_iterate_eq_zero (n := m) (by omega) hbits
  rw [repeatCommand, hrun, ← hzero]
  exact repeatCommand_sety m (by rwa [State.widthOk, hcfg]) (by rw [hpad]; rfl) hbound

/-! ### A ramp of samples runs the smoother (R173) -/

/-- A ramp that fits has fitted all along. -/
theorem rampFits_of_le {p : Side} {d : Int} {s : State} {k n : Nat} (hk : k ≤ n) (h : rampFits p d n s) :
    rampFits p d k s := by
  rcases h with hsixteen | ⟨hstart, hend⟩
  · exact .inl hsixteen
  · have hkn : (k : Int) ≤ n := by exact_mod_cast hk
    have hbetween : min 0 (n * d) ≤ k * d ∧ k * d ≤ max 0 (n * d) := by
      rcases le_total 0 d with hd | hd
      · exact ⟨(min_le_left ..).trans (by positivity), le_max_of_le_right (mul_le_mul_of_nonneg_right hkn hd)⟩
      · exact ⟨min_le_of_right_le (mul_le_mul_of_nonpos_right hkn hd),
          (mul_nonpos_of_nonneg_of_nonpos (by positivity) hd).trans (le_max_left ..)⟩
    exact .inr ⟨hstart, by omega, by omega⟩

/-- The next sample of a ramp, as the tracker takes it: `d` above the position, however it was wrapped. -/
theorem wrapW_ramp_delta {p : Side} {d : Int} {s : State} (hw : s.widthOk) (hfits : rampFits p d 1 s)
    (hd : |d| ≤ 1023) :
    wrapW s.cfg.width ((BitVec.ofInt 16 ((s.pad p).pos + d)).toInt - (s.pad p).pos) = d := by
  have hrange := abs_le.1 hd
  have hkeep : wrapW s.cfg.width d = d := wrapW_of_range hw (by omega) (by omega)
  rw [toInt_ofInt_eq_wrapW]
  rcases hfits with hsixteen | ⟨-, hsample⟩
  · rw [hsixteen] at hkeep ⊢
    rw [Int.sub_eq_add_neg, wrapW_wrapW_add, add_neg_cancel_comm, hkeep]
  · rw [Nat.cast_one, one_mul] at hsample
    rw [wrapW_of_inWidth (by decide) hsample.1 hsample.2, add_sub_cancel_left, hkeep]

theorem abs_smooth_le {d v : Int} (hd : |d| ≤ 1023) (hv : |v| ≤ 1023) : |smooth d v| ≤ 1023 := by
  rw [abs_le] at hd hv ⊢
  obtain ⟨hpos, hneg⟩ := tdiv_bounds (3 * v + d) (n := 4) (by decide)
  rw [smooth]
  omega

/-- One sample of a ramp that fits: one step of the smoother, and the rest of the ramp fits. -/
theorem exec_sety_ramp {p : Side} {d : Int} {s : State} {n : Nat} (hw : s.widthOk) (hfits : rampFits p d (n + 1) s)
    (hd : |d| ≤ 1023) (hv : |(s.pad p).vel| ≤ 1023) :
    ∃ t, exec (.sety p (BitVec.ofInt 16 ((s.pad p).pos + d))) s = .next t ∧ t.widthOk ∧ rampFits p d n t ∧
      (t.pad p).vel = smooth d (s.pad p).vel := by
  obtain ⟨t, hrun, hcfg, hpad⟩ := exec_sety_pad hw p (BitVec.ofInt 16 ((s.pad p).pos + d))
  have hfirst : rampFits p d 1 s := rampFits_of_le (by omega) hfits
  refine ⟨t, hrun, by rwa [State.widthOk, hcfg], ?rest, ?velocity⟩
  case rest =>
    rcases hfits with hsixteen | ⟨-, hend⟩
    · exact .inl (by rw [hcfg, hsixteen])
    rcases hfirst with hsixteen | ⟨-, hsample⟩
    · exact .inl (by rw [hcfg, hsixteen])
    rw [Nat.cast_one, one_mul] at hsample
    have hpos : (t.pad p).pos = (s.pad p).pos + d := by
      rw [hpad]
      exact toInt_ofInt_of_inWidth (by decide) hsample
    have hlast : (s.pad p).pos + d + n * d = (s.pad p).pos + (n + 1 : Nat) * d := by push_cast; ring
    exact .inr (by rw [hpos, hlast]; exact ⟨hsample, hend⟩)
  case velocity =>
    have hdRange := abs_le.1 hd
    have hvRange := abs_le.1 hv
    rw [hpad]
    exact samplePaddle_vel_of_inWidth (by omega) (wrapW_ramp_delta hw hfirst hd)
      (inWidth_of_range hw (by omega) (by omega))

/-- A ramp that fits iterates the smoother. -/
theorem rampSamples_vel {p : Side} {d : Int} (n : Nat) {s : State} (hw : s.widthOk) (hfits : rampFits p d n s)
    (hd : |d| ≤ 1023) (hv : |(s.pad p).vel| ≤ 1023) :
    ∃ t, rampSamples p d n s = .next t ∧ (t.pad p).vel = (smooth d)^[n] (s.pad p).vel := by
  induction n generalizing s with
  | zero => exact ⟨s, rfl, rfl⟩
  | succ n ih =>
    obtain ⟨t, hrun, ht, hrest, hvel⟩ := exec_sety_ramp hw hfits hd hv
    rw [rampSamples, hrun, Function.iterate_succ_apply, ← hvel]
    exact ih ht hrest (by rw [hvel]; exact abs_smooth_le hd hv)

/-! ### Where a ramp settles (R173 (b) to (d)) -/

/-- The gap between the step and the velocity after a sample: it loses its quarter, rounded down. -/
def closeGap (gap : Int) : Int := gap - gap / 4

theorem closeGap_monotone : Monotone closeGap := fun a b h => by
  unfold closeGap
  omega

theorem closeGap_eq_self_iff (gap : Int) : closeGap gap = gap ↔ 0 ≤ gap ∧ gap ≤ 3 := by
  unfold closeGap
  omega

theorem smooth_eq_sub_closeGap {d v : Int} (hd : 0 ≤ d) (hv : 0 ≤ v) : smooth d v = d - closeGap (d - v) := by
  rw [smooth_of_nonneg hd hv, closeGap]
  omega

theorem smooth_iterate_eq_sub_closeGap {d : Int} (hd : 0 ≤ d) (n : Nat) {v : Int} (hv : 0 ≤ v) :
    (smooth d)^[n] v = d - closeGap^[n] (d - v) := by
  induction n generalizing v with
  | zero => exact (Int.sub_sub_self d v).symm
  | succ n ih =>
    have hnonneg : 0 ≤ smooth d v := by
      rw [smooth_of_nonneg hd hv]
      omega
    rw [Function.iterate_succ_apply, Function.iterate_succ_apply, ih hnonneg, smooth_eq_sub_closeGap hd hv,
      Int.sub_sub_self]

/-- The greatest and the least gap of a ramp are closed within 32 samples, up to the rounding. -/
theorem closeGap_iterate_extremes {n : Nat} (hn : 32 ≤ n) : closeGap^[n] 1023 = 3 ∧ closeGap^[n] (-1023) = 0 := by
  obtain ⟨k, rfl⟩ := Nat.exists_eq_add_of_le' hn
  have habove : closeGap^[32] 1023 = 3 := by decide
  have hbelow : closeGap^[32] (-1023) = 0 := by decide
  rw [Function.iterate_add_apply, Function.iterate_add_apply, habove, hbelow]
  exact ⟨Function.iterate_fixed rfl k, Function.iterate_fixed rfl k⟩

/-- A gap from above the velocity closes to 3, or is as small already; monotony bounds it by the extremes. -/
theorem closeGap_iterate_of_nonneg {n : Nat} (hn : 32 ≤ n) {gap : Int} (hlo : 0 ≤ gap) (hhi : gap ≤ 1023) :
    closeGap^[n] gap = min gap 3 := by
  rcases le_total gap 3 with hsmall | hlarge
  · rw [min_eq_left hsmall]
    exact Function.iterate_fixed ((closeGap_eq_self_iff gap).2 ⟨hlo, hsmall⟩) n
  · have hge := closeGap_monotone.iterate n hlarge
    have hle := closeGap_monotone.iterate n hhi
    rw [Function.iterate_fixed ((closeGap_eq_self_iff 3).2 (by decide)) n] at hge
    rw [(closeGap_iterate_extremes hn).1] at hle
    omega

theorem closeGap_iterate_of_nonpos {n : Nat} (hn : 32 ≤ n) {gap : Int} (hlo : -1023 ≤ gap) (hhi : gap ≤ 0) :
    closeGap^[n] gap = 0 := by
  have hge := closeGap_monotone.iterate n hlo
  have hle := closeGap_monotone.iterate n hhi
  rw [Function.iterate_fixed ((closeGap_eq_self_iff 0).2 (by decide)) n] at hle
  rw [(closeGap_iterate_extremes hn).2] at hge
  omega

/-- From rest the velocity never falls, since the gap never grows. -/
theorem smooth_iterate_le_succ {d : Int} (hd : 0 ≤ d) (n : Nat) : (smooth d)^[n] 0 ≤ (smooth d)^[n + 1] 0 := by
  have hshrinks : closeGap d ≤ d := by
    unfold closeGap
    omega
  have hgap := closeGap_monotone.antitone_iterate_of_map_le hshrinks n.le_succ
  rw [smooth_iterate_eq_sub_closeGap hd n le_rfl, smooth_iterate_eq_sub_closeGap hd (n + 1) le_rfl, Int.sub_zero]
  exact Int.sub_le_sub_left hgap d

theorem smooth_iterate_zero {d : Int} (hlo : 0 ≤ d) (hhi : d ≤ 1023) {n : Nat} (hn : 32 ≤ n) :
    (smooth d)^[n] 0 = max (d - 3) 0 := by
  rw [smooth_iterate_eq_sub_closeGap hlo n le_rfl, Int.sub_zero, closeGap_iterate_of_nonneg hn hlo hhi]
  omega

theorem smooth_iterate_of_ge {d v : Int} (hd : 0 ≤ d) (hv : d ≤ v) (hhi : v ≤ 1023) {n : Nat} (hn : 32 ≤ n) :
    (smooth d)^[n] v = d := by
  rw [smooth_iterate_eq_sub_closeGap hd n (hd.trans hv), closeGap_iterate_of_nonpos hn (by omega) (by omega),
    Int.sub_zero]

theorem smooth_neg_iterate_zero (d : Int) (n : Nat) : (smooth (-d))^[n] 0 = -(smooth d)^[n] 0 := by
  have hmirror : Function.Semiconj Neg.neg (smooth d) (smooth (-d)) := fun v => (smooth_neg d v).symm
  exact (hmirror.iterate_right n 0).symm

/-- Settles O32: every clause is about the iterates of the smoother, of the gap, or of the mirror image. -/
theorem smootherLimits : Obligations.SmootherLimits := by
  refine ⟨fun p raw s n hw hn => constant_samples_settle hw hn, fun p d s hw hfits hd hd' hv hv' => ?fixed,
    fun p d s hw hd hd' hv => ⟨fun n hfits => ?rises, fun n hn hfits => ?settles⟩,
    fun p d s hw hd hv hv' n hn hfits => ?fromAbove, fun p d s hw hd hd' hv n hn hfits => ?falling⟩
  case fixed =>
    obtain ⟨t, hrun, hvel⟩ := rampSamples_vel 1 hw hfits (abs_le.2 ⟨by omega, hd'⟩) (abs_le.2 ⟨by omega, hv'⟩)
    refine ⟨t, hrun, ?_⟩
    rw [hvel, Function.iterate_one, smooth_of_nonneg hd.le hv]
    omega
  case rises =>
    have hd'' : |d| ≤ 1023 := abs_le.2 ⟨by omega, hd'⟩
    have hv' : |(s.pad p).vel| ≤ 1023 := by rw [hv]; decide
    obtain ⟨t, hrunT, hvelT⟩ := rampSamples_vel n hw (rampFits_of_le n.le_succ hfits) hd'' hv'
    obtain ⟨u, hrunU, hvelU⟩ := rampSamples_vel (n + 1) hw hfits hd'' hv'
    refine ⟨t, u, hrunT, hrunU, ?_⟩
    rw [hvelT, hvelU, hv]
    exact smooth_iterate_le_succ hd.le n
  case settles =>
    obtain ⟨t, hrun, hvel⟩ := rampSamples_vel n hw hfits (abs_le.2 ⟨by omega, hd'⟩) (by rw [hv]; decide)
    exact ⟨t, hrun, by rw [hvel, hv, smooth_iterate_zero hd.le hd' hn]⟩
  case fromAbove =>
    obtain ⟨t, hrun, hvel⟩ := rampSamples_vel n hw hfits (abs_le.2 ⟨by omega, by omega⟩) (abs_le.2 ⟨by omega, hv'⟩)
    exact ⟨t, hrun, by rw [hvel, smooth_iterate_of_ge hd.le hv.le hv' hn]⟩
  case falling =>
    obtain ⟨t, hrun, hvel⟩ := rampSamples_vel n hw hfits (abs_le.2 ⟨hd', by omega⟩) (by rw [hv]; decide)
    have hmirror := smooth_neg_iterate_zero (-d) n
    rw [Int.neg_neg, smooth_iterate_zero (d := -d) (by omega) (by omega) hn] at hmirror
    refine ⟨t, hrun, ?_⟩
    rw [hvel, hv, hmirror]
    omega

end Sys2Proof.Machine
end

section
/-! The score commands (42_score.md R185 to R187): REGPT counts a point and then blocks the next, CHKPT and RDSC read. -/

namespace Sys2Proof.Machine

/-! ### REGPT (R185) -/

/-- The register after a counted point, with the count modulo 128 (R185 corner case (a)). -/
theorem scorePoint_eq {v : Byte} (h : pend v = false) : scorePoint v = 0x80#8 + (v + 1) % 128 := by
  apply BitVec.eq_of_toNat_eq
  rw [scorePoint_toNat h]
  simp only [BitVec.toNat_add, BitVec.toNat_umod, BitVec.ofNat_eq_ofNat, BitVec.toNat_ofNat, Nat.reducePow,
    Nat.reduceMod]
  omega

theorem State.playing_eq_false_iff (s : State) :
    s.playing = false ↔ pend s.score0 = true ∨ pend s.score1 = true := by
  rw [← Bool.not_eq_true, s.playing_iff, not_and_or, Bool.not_eq_false, Bool.not_eq_false]

/-- A point is pending after RegisterPoint: the one it counted, or the one that blocked it. -/
theorem State.registerPoint_playing (s : State) (p : Side) : (s.registerPoint p).playing = false := by
  rcases s.registerPoint_cases p with ⟨hplay, e⟩ | ⟨hpending, e⟩ <;> rw [e]
  · have hset : pend (scorePoint (s.score p)) = true := (scorePoint_bits (pend_score_of_playing hplay p)).1
    rw [State.playing_eq_false_iff]
    cases p with
    | left => exact .inl hset
    | right => exact .inr hset
  · exact hpending

/-- REGPT is RegisterPoint and the response 0. -/
theorem exec_regpt (p : Side) (s : State) : exec (.regpt p) s = .next ((s.registerPoint p).respond 0x0000) :=
  exec_eq_effect_respond (.regpt p) s

/-- While a point is pending, REGPT only responds. -/
theorem exec_regpt_of_pending {s : State} (h : s.playing = false) (p : Side) :
    exec (.regpt p) s = .next (s.respond 0x0000) := by
  rw [exec_regpt, State.registerPoint_of_pending h]

/-- While none is pending, REGPT writes the scorer's register. -/
theorem exec_regpt_of_playing {s : State} (h : s.playing = true) (p : Side) :
    exec (.regpt p) s = .next ((s.setScore p (0x80#8 + (s.score p + 1) % 128)).respond 0x0000) := by
  rw [exec_regpt, State.registerPoint_of_playing h, scorePoint_eq (pend_score_of_playing h p)]

/-- Settles O33: a counted point writes its side's register, a pending one blocks, and after REGPT one is pending. -/
theorem regptCountsUnlessPending : Obligations.RegptCountsUnlessPending := by
  refine ⟨encodes_of_opcode (.regpt .left) rfl fun w => ?operands, fun p s h0 h1 => ?counted,
    fun p s _ hpending => ?blocked, fun p q s _ => ?again⟩
  case operands =>
    rw [← sideField_eq_selectBit]
    rfl
  case counted =>
    rw [exec_regpt_of_playing (s.playing_iff.2 ⟨h0, h1⟩)]
    cases p <;> rfl
  case blocked => exact exec_regpt_of_pending (s.playing_eq_false_iff.2 hpending) p
  case again =>
    have hpending : ((s.registerPoint p).respond 0x0000).playing = false := s.registerPoint_playing p
    exact ⟨_, exec_regpt p s, exec_regpt_of_pending hpending q⟩

/-! ### CHKPT (R186) and RDSC (R187) -/

/-- With at most one flag set, the two bits are never both in the answer (10_state.md R27). -/
theorem pendingBits_of_pendExclusive {s : State} (h : s.pendExclusive) :
    pendingBits s.score0 s.score1 =
      if pend s.score1 then 0x0002 else if pend s.score0 then 0x0001 else 0x0000 := by
  unfold pendingBits
  cases h0 : pend s.score0 with
  | false => cases pend s.score1 <;> rfl
  | true =>
    have h1 : pend s.score1 = false := Bool.eq_false_iff.2 fun h1 => h ⟨h0, h1⟩
    rw [h1]
    rfl

/-- Settles O34: both commands respond a function of the scores and have no effect. -/
theorem chkptAndRdscReadScores : Obligations.ChkptAndRdscReadScores := by
  refine ⟨encodes_of_opcode .chkpt rfl fun _ => rfl, encodes_of_opcode (.rdsc .left) rfl fun w => ?operands,
    fun s h => ?flags, fun p s => exec_eq_effect_respond (.rdsc p) s⟩
  case operands =>
    rw [← sideField_eq_selectBit]
    rfl
  case flags =>
    rw [← pendingBits_of_pendExclusive h]
    exact exec_eq_effect_respond .chkpt s

end Sys2Proof.Machine
end

section
/-! The line algorithm (43_framebuffer.md R205): the error loop in closed form, and from it the count, the ends and the
rectangle of a line's points. -/

namespace Sys2Proof.Machine

/-! ### The error loop -/

/-- The rows the error loop has gone after `k` columns: the ceiling of `(k dy - err) / dx` for the start error `err`. -/
def minorSteps (dx dy err : Int) (k : Nat) : Int := (k * dy + dx - 1 - err) / dx

theorem minorSteps_zero {dx err : Int} (dy : Int) (herr : 0 ≤ err) (hlt : err < dx) : minorSteps dx dy err 0 = 0 :=
  Int.ediv_eq_zero_of_lt (by push_cast; omega) (by push_cast; omega)

/-- A column that keeps the row passes the rest of its error on. -/
theorem minorSteps_succ (dx dy err : Int) (k : Nat) : minorSteps dx dy err (k + 1) = minorSteps dx dy (err - dy) k := by
  unfold minorSteps
  congr 1
  push_cast
  ring

/-- A column that changes the row adds `dx` to the error. -/
theorem minorSteps_add_dx {dx : Int} (hdx : 0 < dx) (dy err : Int) (k : Nat) :
    minorSteps dx dy err k = minorSteps dx dy (err + dx) k + 1 := by
  have hnum : (k : Int) * dy + dx - 1 - err = k * dy + dx - 1 - (err + dx) + dx := by ring
  rw [minorSteps, hnum, Int.add_ediv_of_dvd_right (dvd_refl dx), Int.ediv_self hdx.ne']
  rfl

theorem lineLoop_eq_map_range {dx dy : Int} (hdx : 0 < dx) (hdy : dy ≤ dx) (hdy0 : 0 ≤ dy) (ystep : Int) (n : Nat)
    (x y : Int) {err : Int} (herr : 0 ≤ err) (hlt : err < dx) :
    lineLoop dx dy ystep n x y err =
      (List.range n).map fun k : Nat => (x + k, y + ystep * minorSteps dx dy err k) := by
  induction n generalizing x y err with
  | zero => rfl
  | succ n ih =>
    have hcol : ∀ k : Nat, x + 1 + k = x + (k + 1 : Nat) := fun k => by push_cast; ring
    rw [List.range_succ_eq_map, List.map_cons, List.map_map, minorSteps_zero dy herr hlt, lineLoop]
    simp only [Int.natCast_zero, Int.add_zero, Int.mul_zero, List.cons.injEq, true_and]
    split
    · rw [ih (x + 1) (y + ystep) (by omega) (by omega)]
      refine List.map_congr_left fun k _ => Prod.ext (hcol k) ?_
      simp only [Function.comp_apply, minorSteps_succ, minorSteps_add_dx hdx dy (err - dy)]
      ring
    · rw [ih (x + 1) y (by omega) (by omega)]
      refine List.map_congr_left fun k _ => Prod.ext (hcol k) ?_
      simp only [Function.comp_apply, minorSteps_succ]

/-! ### Lines along the major axis, in rising order -/

/-- Point `k` of a line that is not steep, from its left end on. -/
def majorPoint (x0 y0 x1 y1 : Int) (k : Nat) : Int × Int :=
  (x0 + k, y0 + (if y0 < y1 then 1 else -1) * minorSteps (x1 - x0) |y1 - y0| ((x1 - x0) / 2) k)

theorem majorPoints_eq {x0 y0 x1 y1 : Int} (hx : x0 ≤ x1) (hflat : |y1 - y0| ≤ x1 - x0) :
    majorPoints x0 y0 x1 y1 = (List.range (x1 - x0 + 1).toNat).map (majorPoint x0 y0 x1 y1) := by
  rcases hx.lt_or_eq with hlt | rfl
  · exact lineLoop_eq_map_range (by omega) hflat (abs_nonneg _) _ _ _ _ (by omega) (by omega)
  · simp [majorPoints, majorPoint, minorSteps, lineLoop]

theorem orderedPoints_of_le {x0 x1 : Int} (y0 y1 : Int) (hx : x0 ≤ x1) :
    orderedPoints x0 y0 x1 y1 = majorPoints x0 y0 x1 y1 := if_neg (by omega)

/-- The ends of a line that is not steep may be swapped; when neither is the left one, they are the same point. -/
theorem orderedPoints_comm {x0 y0 x1 y1 : Int} (hflat : |y1 - y0| ≤ |x1 - x0|) :
    orderedPoints x0 y0 x1 y1 = orderedPoints x1 y1 x0 y0 := by
  unfold orderedPoints
  rcases lt_trichotomy x0 x1 with hlt | rfl | hgt
  · rw [if_neg (by omega), if_pos hlt]
  · obtain rfl : y0 = y1 := by simp at hflat; omega
    rfl
  · rw [if_pos hgt, if_neg (by omega)]

/-! ### All lines -/

theorem linePoints_of_flat {x0 y0 x1 y1 : Int} (h : |y1 - y0| ≤ |x1 - x0|) :
    linePoints x0 y0 x1 y1 = orderedPoints x0 y0 x1 y1 := if_neg (by omega)

theorem linePoints_of_steep {x0 y0 x1 y1 : Int} (h : |x1 - x0| < |y1 - y0|) :
    linePoints x0 y0 x1 y1 = (linePoints y0 x0 y1 x1).map Prod.swap := by
  rw [linePoints_of_flat h.le]
  exact if_pos h

theorem linePoints_of_major {x0 y0 x1 y1 : Int} (hx : x0 ≤ x1) (hflat : |y1 - y0| ≤ x1 - x0) :
    linePoints x0 y0 x1 y1 = (List.range (x1 - x0 + 1).toNat).map (majorPoint x0 y0 x1 y1) := by
  rw [linePoints_of_flat (by rwa [abs_of_nonneg (by omega : 0 ≤ x1 - x0)]), orderedPoints_of_le _ _ hx,
    majorPoints_eq hx hflat]

theorem linePoints_comm (x0 y0 x1 y1 : Int) : linePoints x0 y0 x1 y1 = linePoints x1 y1 x0 y0 := by
  have flat : ∀ {u0 v0 u1 v1 : Int}, |v1 - v0| ≤ |u1 - u0| → linePoints u0 v0 u1 v1 = linePoints u1 v1 u0 v0 :=
    fun {u0 v0 u1 v1} h => by
      rw [linePoints_of_flat h, linePoints_of_flat (by rwa [abs_sub_comm v0, abs_sub_comm u0]), orderedPoints_comm h]
  rcases le_or_gt |y1 - y0| |x1 - x0| with h | h
  · exact flat h
  · rw [linePoints_of_steep h, linePoints_of_steep (x0 := x1) (by rwa [abs_sub_comm y0, abs_sub_comm x0]), flat h.le]

/-- Settles O38: the loop's closed form along the major axis, and the two symmetries of a line. -/
theorem linePointsClosedForm : Obligations.LinePointsClosedForm := by
  refine ⟨fun x0 y0 x1 y1 hx hflat => ?_, fun _ _ _ _ h => linePoints_of_steep h, linePoints_comm⟩
  rw [linePoints_of_major hx hflat, bind_pure_comp, List.map_eq_map, List.map_map]
  rfl

/-! ### The points of a line (R205) -/

/-- What O39 says of the points `pts` of the line from (x0, y0) to (x1, y1). -/
structure IsLine (x0 y0 x1 y1 : Int) (pts : List (Int × Int)) : Prop where
  length : (pts.length : Int) = max |x1 - x0| |y1 - y0| + 1
  nodup : pts.Nodup
  first : (x0, y0) ∈ pts
  last : (x1, y1) ∈ pts
  rectangle : ∀ pt ∈ pts, min x0 x1 ≤ pt.1 ∧ pt.1 ≤ max x0 x1 ∧ min y0 y1 ≤ pt.2 ∧ pt.2 ≤ max y0 y1

theorem IsLine.comm {x0 y0 x1 y1 : Int} {pts : List (Int × Int)} (h : IsLine x0 y0 x1 y1 pts) :
    IsLine x1 y1 x0 y0 pts where
  length := by rw [h.length, abs_sub_comm x1, abs_sub_comm y1]
  nodup := h.nodup
  first := h.last
  last := h.first
  rectangle := by simpa only [min_comm, max_comm] using h.rectangle

theorem IsLine.swap {x0 y0 x1 y1 : Int} {pts : List (Int × Int)} (h : IsLine x0 y0 x1 y1 pts) :
    IsLine y0 x0 y1 x1 (pts.map Prod.swap) where
  length := by rw [List.length_map, h.length, max_comm]
  nodup := h.nodup.map Prod.swap_injective
  first := List.mem_map.2 ⟨_, h.first, rfl⟩
  last := List.mem_map.2 ⟨_, h.last, rfl⟩
  rectangle := by
    rintro _ hpt
    obtain ⟨pt, hmem, rfl⟩ := List.mem_map.1 hpt
    obtain ⟨hx0, hx1, hy0, hy1⟩ := h.rectangle pt hmem
    exact ⟨hy0, hy1, hx0, hx1⟩

/-- The row stays between the rows of the two ends, and the last column has the last row. -/
theorem minorSteps_bounds {dx dy : Int} (hdy0 : 0 ≤ dy) (hdy : dy ≤ dx) {k : Nat} (hk : (k : Int) ≤ dx) :
    0 ≤ minorSteps dx dy (dx / 2) k ∧ minorSteps dx dy (dx / 2) k ≤ dy := by
  rcases (hdy0.trans hdy).lt_or_eq with hdx | rfl
  · have hlo : 0 ≤ (k : Int) * dy := by positivity
    have hhi : (k : Int) * dy ≤ dx * dy := mul_le_mul_of_nonneg_right hk hdy0
    refine ⟨Int.ediv_nonneg (by omega) hdx.le, Int.lt_add_one_iff.1 (Int.ediv_lt_of_lt_mul hdx ?_)⟩
    rw [add_mul, mul_comm dy dx]
    omega
  · simpa [minorSteps] using hdy0

theorem minorSteps_last {dx dy : Int} (hdy0 : 0 ≤ dy) (hdy : dy ≤ dx) {k : Nat} (hk : (k : Int) = dx) :
    minorSteps dx dy (dx / 2) k = dy := by
  rcases (hdy0.trans hdy).lt_or_eq with hdx | rfl
  · have hnum : (k : Int) * dy + dx - 1 - dx / 2 = dx - 1 - dx / 2 + dx * dy := by rw [hk]; ring
    rw [minorSteps, hnum, Int.add_mul_ediv_left _ _ hdx.ne',
      Int.ediv_eq_zero_of_lt (by omega) (by omega), Int.zero_add]
  · simp [minorSteps]; omega

theorem majorPoint_zero {x0 y0 x1 y1 : Int} (hx : x0 ≤ x1) : majorPoint x0 y0 x1 y1 0 = (x0, y0) := by
  rcases hx.lt_or_eq with hlt | rfl
  · have hsteps := minorSteps_zero |y1 - y0| (by omega : 0 ≤ (x1 - x0) / 2) (by omega : (x1 - x0) / 2 < x1 - x0)
    simp [majorPoint, hsteps]
  · simp [majorPoint, minorSteps]

theorem majorPoint_last {x0 y0 x1 y1 : Int} (hflat : |y1 - y0| ≤ x1 - x0) :
    majorPoint x0 y0 x1 y1 (x1 - x0).toNat = (x1, y1) := by
  have hk : ((x1 - x0).toNat : Int) = x1 - x0 := Int.toNat_of_nonneg ((abs_nonneg _).trans hflat)
  rw [majorPoint, minorSteps_last (abs_nonneg _) hflat hk, hk]
  split_ifs with h
  · rw [abs_of_pos (by omega)]; simp
  · rw [abs_of_nonpos (by omega)]; simp

theorem majorPoint_rectangle {x0 y0 x1 y1 : Int} (hflat : |y1 - y0| ≤ x1 - x0) {k : Nat} (hk : (k : Int) ≤ x1 - x0) :
    min x0 x1 ≤ (majorPoint x0 y0 x1 y1 k).1 ∧ (majorPoint x0 y0 x1 y1 k).1 ≤ max x0 x1 ∧
      min y0 y1 ≤ (majorPoint x0 y0 x1 y1 k).2 ∧ (majorPoint x0 y0 x1 y1 k).2 ≤ max y0 y1 := by
  obtain ⟨hlo, hhi⟩ := minorSteps_bounds (abs_nonneg _) hflat hk
  unfold majorPoint
  split_ifs with h
  · rw [abs_of_pos (by omega)] at *; omega
  · rw [abs_of_nonpos (by omega)] at *; omega

theorem majorPoint_injective (x0 y0 x1 y1 : Int) : Function.Injective (majorPoint x0 y0 x1 y1) := fun j k h => by
  have hcol : x0 + (j : Int) = x0 + k := congrArg Prod.fst h
  omega

theorem isLine_of_major {x0 y0 x1 y1 : Int} (hx : x0 ≤ x1) (hflat : |y1 - y0| ≤ x1 - x0) :
    IsLine x0 y0 x1 y1 (linePoints x0 y0 x1 y1) := by
  rw [linePoints_of_major hx hflat]
  refine ⟨?length, List.nodup_range.map (majorPoint_injective x0 y0 x1 y1), ?first, ?last, ?rectangle⟩
  case length =>
    rw [abs_of_nonneg (by omega : 0 ≤ x1 - x0), max_eq_left hflat, List.length_map, List.length_range]
    omega
  case first => exact List.mem_map.2 ⟨0, List.mem_range.2 (by omega), majorPoint_zero hx⟩
  case last => exact List.mem_map.2 ⟨(x1 - x0).toNat, List.mem_range.2 (by omega), majorPoint_last hflat⟩
  case rectangle =>
    rintro _ hpt
    obtain ⟨k, hk, rfl⟩ := List.mem_map.1 hpt
    exact majorPoint_rectangle hflat (by have := List.mem_range.1 hk; omega)

theorem isLine_of_flat {x0 y0 x1 y1 : Int} (h : |y1 - y0| ≤ |x1 - x0|) :
    IsLine x0 y0 x1 y1 (linePoints x0 y0 x1 y1) := by
  rcases le_total x0 x1 with hx | hx
  · exact isLine_of_major hx (by rwa [abs_of_nonneg (by omega : 0 ≤ x1 - x0)] at h)
  · rw [linePoints_comm]
    refine (isLine_of_major hx ?_).comm
    rwa [abs_of_nonpos (by omega : x1 - x0 ≤ 0), neg_sub, abs_sub_comm] at h

theorem isLine_linePoints (x0 y0 x1 y1 : Int) : IsLine x0 y0 x1 y1 (linePoints x0 y0 x1 y1) := by
  rcases le_or_gt |y1 - y0| |x1 - x0| with h | h
  · exact isLine_of_flat h
  · rw [linePoints_of_steep h]
    exact (isLine_of_flat h.le).swap

/-- Settles O39: proved for a line that runs along the columns from left to right, the others are its mirrors. -/
theorem linePointsAreALine : Obligations.LinePointsAreALine := fun x0 y0 x1 y1 =>
  have h := isLine_linePoints x0 y0 x1 y1
  ⟨h.length, h.nodup, h.first, h.last, h.rectangle⟩

end Sys2Proof.Machine
end

section
/-! Drawing commands: a command that changes nothing but the framebuffer, by the bytes it stores and the pixels it writes
(43_framebuffer.md R200 to R208). -/

namespace Sys2Proof.Machine

/-! ### Pixels are all of a canonical framebuffer (10_state.md R30) -/

/-- Canonical framebuffers with the same pixels are equal: every byte is eight pixels of the field. -/
theorem fb_eq_of_pixel {s t : State} (hs : s.fbWf) (ht : t.fbWf)
    (h : ∀ x y, x < 128 → y < 64 → pixel s x y = pixel t x y) : s.fb = t.fb := by
  refine fb_eq_of_fbRead hs ht fun a => ?_
  rcases Nat.lt_or_ge a fbBytes with ha | ha
  · refine BitVec.eq_of_getLsbD_eq fun j hj => ?_
    have hpixel := h (a % 128) (a / 128 * 8 + j) (by omega) (by simp only [fbBytes] at ha; omega)
    have haddr : a % 128 + (a / 128 * 8 + j) / 8 * 128 = a := by omega
    have hbit : (a / 128 * 8 + j) % 8 = j := by omega
    simpa only [pixel, haddr, hbit] using hpixel
  · simp only [fbRead, Memory.lookup_of_size_le hs ha, Memory.lookup_of_size_le ht ha]

/-! ### A command that draws -/

/-- A command whose effect is another framebuffer and whose response is 0 draws what that framebuffer shows. -/
theorem drawsExactly_of_effect {i : Instr} {s u : State} {stored : Nat → Prop} {px : Nat → Nat → Bool}
    (heffect : effect s i = u) (hresp : responseWord s i = 0x0000) (hfb : OnlyFb s u) (hwf : u.fbWf)
    (hbytes : ∀ a, ¬ stored a → fbRead u a = fbRead s a)
    (hpixels : ∀ x y, x < 128 → y < 64 → pixel u x y = px x y) : DrawsExactly i s stored px := by
  refine ⟨u.respond 0x0000, ?_, ?_, hwf, hbytes, hpixels⟩
  · rw [exec_eq_effect_respond, heffect, hresp]
  · rw [hfb]
    rfl

/-- Drawing, said with other names for the same addresses and pixels. -/
theorem DrawsExactly.congr {i : Instr} {s : State} {stored stored' : Nat → Prop} {px px' : Nat → Nat → Bool}
    (h : DrawsExactly i s stored px) (hstored : ∀ a, stored a → stored' a) (hpx : ∀ x y, px x y = px' x y) :
    DrawsExactly i s stored' px' := by
  obtain ⟨t, hexec, hfb, hwf, hbytes, hpixels⟩ := h
  exact ⟨t, hexec, hfb, hwf, fun a ha => hbytes a (mt (hstored a) ha), fun x y hx hy =>
    (hpixels x y hx hy).trans (hpx x y)⟩

/-! ### A list of plots (R203) -/

theorem plot_eq_plots (m : PixelMode) (s : State) (pt : Int × Int) : plot m s pt = [pt].foldl (plot m) s := by
  rw [List.foldl_cons, List.foldl_nil]

/-- Distinct points change their own pixels, each by the mode, and no other. -/
theorem pixel_plots (m : PixelMode) {l : List (Int × Int)} (hn : l.Nodup) {s : State} (hs : s.fbWf) {x y : Nat}
    (hx : x < 128) (hy : y < 64) :
    pixel (l.foldl (plot m) s) x y =
      if ((x : Int), (y : Int)) ∈ l then m.bit (pixel s x y) else pixel s x y := by
  split
  case isTrue hmem => exact pixel_plots_of_mem m l hs hx hy hn hmem
  case isFalse hmem => exact pixel_plots_of_not_mem m l hs hx hy hmem

/-- The addresses of the points that are in the field. -/
abbrev plotStores (l : List (Int × Int)) (a : Nat) : Prop :=
  ∃ pt ∈ l, 0 ≤ pt.1 ∧ pt.1 < 128 ∧ 0 ≤ pt.2 ∧ pt.2 < 64 ∧ a = pixAddr pt.1.toNat pt.2.toNat

/-- Operations that each leave a byte alone leave it alone together. -/
theorem fbRead_foldl_of_frame {α : Type} {f : State → α → State} {l : List α} {a : Nat}
    (hf : ∀ s, ∀ b ∈ l, fbRead (f s b) a = fbRead s a) (s : State) : fbRead (l.foldl f s) a = fbRead s a :=
  List.foldlRecOn l f (motive := fun t => fbRead t a = fbRead s a) rfl fun t ht b hb => (hf t b hb).trans ht

theorem fbRead_plots_of_not_stored (m : PixelMode) {l : List (Int × Int)} {a : Nat} (ha : ¬ plotStores l a)
    (s : State) : fbRead (l.foldl (plot m) s) a = fbRead s a := by
  refine fbRead_foldl_of_frame (fun s pt hpt => ?_) s
  rcases inField_cases pt with hout | ⟨x, y, hx, hy, rfl⟩
  · rw [plot_of_not_inField m s hout]
  · refine fbRead_plot_ne m s x y fun haddr => ha ⟨_, hpt, ?_⟩
    simpa [hx, hy] using haddr

/-- A command that plots distinct points. -/
theorem drawsExactly_of_plots (m : PixelMode) {i : Instr} {l : List (Int × Int)} (hn : l.Nodup) {s : State}
    (hs : s.fbWf) (heffect : effect s i = l.foldl (plot m) s) (hresp : responseWord s i = 0x0000) :
    DrawsExactly i s (plotStores l) fun x y =>
      if ((x : Int), (y : Int)) ∈ l then m.bit (pixel s x y) else pixel s x y :=
  drawsExactly_of_effect heffect hresp (onlyFb_foldl _ (onlyFb_plot m) l s)
    (fbWf_foldl _ (fun _ pt h => fbWf_plot m h pt) l hs) (fun _ ha => fbRead_plots_of_not_stored m ha s)
    fun _ _ hx hy => pixel_plots m hn hs hx hy

/-! ### One pixel (R200 to R202) -/

theorem drawsExactly_of_plot (m : PixelMode) {i : Instr} {x y : Byte} {s : State} (hs : s.fbWf)
    (heffect : effect s i = plot m s (coord x, coord y)) (hresp : responseWord s i = 0x0000) :
    DrawsExactly i s (fun a => x.toNat < 128 ∧ y.toNat < 64 ∧ a = pixAddr x.toNat y.toNat) fun u v =>
      if u = x.toNat ∧ v = y.toNat then m.bit (pixel s u v) else pixel s u v := by
  have hplots := drawsExactly_of_plots m (List.nodup_singleton ((coord x : Int), (coord y : Int))) hs
    (heffect.trans (plot_eq_plots ..)) hresp
  refine hplots.congr ?stored ?pixels
  case stored =>
    rintro a ⟨pt, hpt, -, hx, -, hy, rfl⟩
    obtain rfl := List.mem_singleton.1 hpt
    exact ⟨Int.ofNat_lt.1 hx, Int.ofNat_lt.1 hy, rfl⟩
  case pixels =>
    intro u v
    simp only [List.mem_singleton, Prod.mk.injEq, Nat.cast_inj, coord]

/-- Settles O35: each of the three commands is one Plot. -/
theorem pixelCommandsChangeOnePixel : Obligations.PixelCommandsChangeOnePixel :=
  ⟨encodes_of_opcode (.pxset 0 0) rfl fun _ => rfl, encodes_of_opcode (.pxclr 0 0) rfl fun _ => rfl,
    encodes_of_opcode (.pxtog 0 0) rfl fun _ => rfl, fun _ _ _ hs =>
    ⟨drawsExactly_of_plot .set hs rfl rfl, drawsExactly_of_plot .clear hs rfl rfl,
      drawsExactly_of_plot .toggle hs rfl rfl⟩⟩

/-! ### Lines (R205 to R208) -/

theorem drawsExactly_of_drawLine (m : PixelMode) {i : Instr} {x0 y0 x1 y1 : Byte} {s : State} (hs : s.fbWf)
    (heffect : effect s i = drawLine m x0 y0 x1 y1 s) (hresp : responseWord s i = 0x0000) :
    DrawsExactly i s (plotStores (linePoints x0.toNat y0.toNat x1.toNat y1.toNat)) fun u v =>
      if ((u : Int), (v : Int)) ∈ linePoints x0.toNat y0.toNat x1.toNat y1.toNat then m.bit (pixel s u v)
      else pixel s u v :=
  drawsExactly_of_plots m (isLine_linePoints ..).nodup hs heffect hresp

/-- Settles O37: a line command plots the distinct points of its line. -/
theorem lineCommandsPlotTheirPoints : Obligations.LineCommandsPlotTheirPoints :=
  ⟨encodes_of_opcode (.lineset 0 0 0 0) rfl fun _ => rfl, encodes_of_opcode (.lineclr 0 0 0 0) rfl fun _ => rfl,
    encodes_of_opcode (.linetog 0 0 0 0) rfl fun _ => rfl, fun _ _ _ _ _ hs =>
    ⟨drawsExactly_of_drawLine .set hs rfl rfl, drawsExactly_of_drawLine .clear hs rfl rfl,
      drawsExactly_of_drawLine .toggle hs rfl rfl⟩⟩

/-! ### Toggling twice (R202, R208) -/

/-- Inverting the pixels of distinct points again restores the framebuffer. -/
theorem fb_plots_toggle_twice {l : List (Int × Int)} (hn : l.Nodup) {s t : State} (hs : s.fbWf)
    (ht : t.fb = (l.foldl (plot .toggle) s).fb) : (l.foldl (plot .toggle) t).fb = s.fb := by
  have hplots : ∀ {u : State}, u.fbWf → (l.foldl (plot .toggle) u).fbWf :=
    fbWf_foldl _ (fun _ pt h => fbWf_plot .toggle h pt) l
  have htWf : t.fbWf := by
    rw [State.fbWf, ht]
    exact hplots hs
  have htPixel : ∀ x y, pixel t x y = pixel (l.foldl (plot .toggle) s) x y := fun x y => by
    rw [pixel, fbRead_congr ht, pixel]
  refine fb_eq_of_pixel (hplots htWf) hs fun x y hx hy => ?_
  rw [pixel_plots .toggle hn htWf hx hy, htPixel, pixel_plots .toggle hn hs hx hy]
  split_ifs
  · exact Bool.not_not _
  · rfl

/-- Two commands that invert the pixels of the same distinct points: the second undoes the first. -/
theorem exec_toggle_twice {i j : Instr} {l : List (Int × Int)} (hn : l.Nodup)
    (hi : ∀ s, effect s i = l.foldl (plot .toggle) s) (hj : ∀ s, effect s j = l.foldl (plot .toggle) s) {s t : State}
    (hs : s.fbWf) (ht : exec i s = .next t) : ∃ u, exec j t = .next u ∧ u.fb = s.fb := by
  rw [exec_eq_effect_respond, hi, Host.Outcome.next.injEq] at ht
  refine ⟨_, exec_eq_effect_respond j t, ?_⟩
  rw [State.respond_fb, hj]
  exact fb_plots_toggle_twice hn hs (by rw [← ht, State.respond_fb])

theorem effect_pxtog (x y : Byte) (s : State) :
    effect s (.pxtog x y) = [((coord x : Int), (coord y : Int))].foldl (plot .toggle) s := plot_eq_plots ..

theorem effect_linetog (x0 y0 x1 y1 : Byte) (s : State) :
    effect s (.linetog x0 y0 x1 y1) =
      (linePoints (coord x0) (coord y0) (coord x1) (coord y1)).foldl (plot .toggle) s := rfl

/-- Settles O36: both commands invert the pixels of distinct points, and a line has the same points from either end. -/
theorem togglingTwiceRestores : Obligations.TogglingTwiceRestores := by
  intro x0 y0 x1 y1 s hs
  have hpixel := effect_pxtog x0 y0
  have hline := effect_linetog x0 y0 x1 y1
  have hreversed := effect_linetog x1 y1 x0 y0
  rw [linePoints_comm] at hreversed
  have hn := (isLine_linePoints (coord x0) (coord y0) (coord x1) (coord y1)).nodup
  have hfirst := fun i => exec_eq_effect_respond i s
  obtain ⟨p, hp, hpfb⟩ := exec_toggle_twice (List.nodup_singleton _) hpixel hpixel hs (hfirst _)
  obtain ⟨u, hu, hufb⟩ := exec_toggle_twice hn hline hline hs (hfirst _)
  obtain ⟨v, hv, hvfb⟩ := exec_toggle_twice hn hline hreversed hs (hfirst _)
  exact ⟨⟨_, p, hfirst _, hp, hpfb⟩, _, u, v, hfirst _, hu, hufb, hv, hvfb⟩

end Sys2Proof.Machine
end

section
/-! BlockWrite and glyphs (43_framebuffer.md R210, R214): the bytes BlockWrite stores, bit by bit, and from them the
pixels it writes. -/

namespace Sys2Proof.Machine

/-! ### One byte of the framebuffer and its pixels (20_memory.md R61) -/

theorem pixel_fbWrite {s : State} (hs : s.fbWf) (a : Nat) (v : Byte) (x y : Nat) :
    pixel (fbWrite s a v) x y = if pixAddr x y = a then v.getLsbD (pixBit y) else pixel s x y := by
  rw [pixel, show x + y / 8 * 128 = pixAddr x y from rfl, fbRead_fbWrite hs]
  split_ifs <;> rfl

theorem pixAddr_eq_iff {x y x' y' : Nat} (hx : x < 128) (hx' : x' < 128) :
    pixAddr x y = pixAddr x' y' ↔ x = x' ∧ y / 8 = y' / 8 := by
  simp only [pixAddr, pageHeight, fbWidth]
  omega

/-- The page-byte below is that of the point eight rows below. -/
theorem pixAddr_add_fbWidth (x y : Nat) : pixAddr x y + fbWidth = pixAddr x (y + 8) := by
  simp only [pixAddr, pageHeight, fbWidth]
  omega

/-! ### The two masked bytes (R210) -/

/-- The upper byte stored at bit offset `k`: the rows above keep their bits, the rest are the first bits of `v`. -/
def upperByte (k : Nat) (old v : Byte) : Byte := (old &&& ((0xFF : Byte) >>> (8 - k))) ||| (v <<< k)

/-- The lower byte stored at bit offset `k`: its first `k` rows are the last bits of `v`, the rest keep their bits. -/
def lowerByte (k : Nat) (old v : Byte) : Byte := (old &&& ((0xFF : Byte) <<< k)) ||| (v >>> (8 - k))

theorem getLsbD_ones (j : Nat) : (0xFF : Byte).getLsbD j = decide (j < 8) := BitVec.getLsbD_allOnes

theorem getLsbD_upperByte {k j : Nat} (hk : k ≤ 8) (hj : j < 8) (old v : Byte) :
    (upperByte k old v).getLsbD j = if j < k then old.getLsbD j else v.getLsbD (j - k) := by
  simp only [upperByte, BitVec.getLsbD_or, BitVec.getLsbD_and, BitVec.getLsbD_ushiftRight, BitVec.getLsbD_shiftLeft,
    getLsbD_ones]
  split
  case isTrue h => simp [h, show 8 - k + j < 8 by omega]
  case isFalse h => simp [h, hj, show ¬ 8 - k + j < 8 by omega]

theorem getLsbD_lowerByte {k j : Nat} (hk : k ≤ 8) (hj : j < 8) (old v : Byte) :
    (lowerByte k old v).getLsbD j = if j < k then v.getLsbD (8 - k + j) else old.getLsbD j := by
  simp only [lowerByte, BitVec.getLsbD_or, BitVec.getLsbD_and, BitVec.getLsbD_ushiftRight, BitVec.getLsbD_shiftLeft,
    getLsbD_ones]
  split
  case isTrue h => simp [h]
  case isFalse h => simp [h, hj, show j - k < 8 by omega, BitVec.getLsbD_of_ge v (8 - k + j) (by omega)]

/-! ### BlockWrite: what it stores (R210) -/

theorem blockWrite_of_outside {x y : Nat} (h : ¬ (x < 128 ∧ y < 64)) (v : Byte) (s : State) :
    blockWrite x y v s = s := if_neg h

theorem blockWrite_of_aligned {x y : Nat} (hx : x < 128) (hy : y < 64) (hk : y % 8 = 0) (v : Byte) (s : State) :
    blockWrite x y v s = fbWrite s (pixAddr x y) v := by
  simp [blockWrite, fbWidth, fbHeight, hx, hy, pixBit, pageHeight, hk]

/-- Off a page boundary the upper byte is stored first. -/
def upperWrite (x y : Nat) (v : Byte) (s : State) : State :=
  fbWrite s (pixAddr x y) (upperByte (y % 8) (fbRead s (pixAddr x y)) v)

/-- The store into the page below. -/
def lowerWrite (x y : Nat) (v : Byte) (s : State) : State :=
  fbWrite s (pixAddr x (y + 8)) (lowerByte (y % 8) (fbRead s (pixAddr x (y + 8))) v)

theorem blockWrite_of_bottom {x y : Nat} (hx : x < 128) (hy : y < 64) (hk : y % 8 ≠ 0) (hpage : 7 ≤ y / 8) (v : Byte)
    (s : State) : blockWrite x y v s = upperWrite x y v s := by
  have hpage' : ¬ y / pageHeight < numPages - 1 := by simpa using hpage
  simp only [blockWrite, fbWidth, fbHeight, hx, hy, and_self, if_true, pixBit, pageHeight, hk, if_false, hpage']
  rfl

theorem blockWrite_of_two {x y : Nat} (hx : x < 128) (hy : y < 64) (hk : y % 8 ≠ 0) (hpage : y / 8 < 7) (v : Byte)
    (s : State) : blockWrite x y v s = lowerWrite x y v (upperWrite x y v s) := by
  have hpage' : y / pageHeight < numPages - 1 := by simpa using hpage
  simp only [blockWrite, fbWidth, fbHeight, hx, hy, and_self, if_true, pixBit, pageHeight, hk, if_false, hpage']
  rw [lowerWrite, ← pixAddr_add_fbWidth]
  rfl

/-- All that BlockWrite can do: nothing, one plain store, the upper store, or both masked stores. -/
theorem blockWrite_cases (x y : Nat) (v : Byte) (s : State) :
    (¬ (x < 128 ∧ y < 64) ∧ blockWrite x y v s = s) ∨
      x < 128 ∧ y < 64 ∧
        (y % 8 = 0 ∧ blockWrite x y v s = fbWrite s (pixAddr x y) v ∨
          y % 8 ≠ 0 ∧ 7 ≤ y / 8 ∧ blockWrite x y v s = upperWrite x y v s ∨
          y % 8 ≠ 0 ∧ y / 8 < 7 ∧ blockWrite x y v s = lowerWrite x y v (upperWrite x y v s)) := by
  by_cases hin : x < 128 ∧ y < 64
  · obtain ⟨hx, hy⟩ := hin
    refine .inr ⟨hx, hy, ?_⟩
    by_cases hk : y % 8 = 0
    · exact .inl ⟨hk, blockWrite_of_aligned hx hy hk v s⟩
    · rcases Nat.lt_or_ge (y / 8) 7 with hpage | hpage
      · exact .inr (.inr ⟨hk, hpage, blockWrite_of_two hx hy hk hpage v s⟩)
      · exact .inr (.inl ⟨hk, hpage, blockWrite_of_bottom hx hy hk hpage v s⟩)
  · exact .inl ⟨hin, blockWrite_of_outside hin v s⟩

theorem fbRead_blockWrite_of_not_stored {x y a : Nat} (ha : ¬ blockStores x y a) (v : Byte) (s : State) :
    fbRead (blockWrite x y v s) a = fbRead s a := by
  rcases blockWrite_cases x y v s with ⟨-, hw⟩ | ⟨hx, hy, hcase⟩
  · rw [hw]
  have hupper : pixAddr x y ≠ a := fun h => ha ⟨hx, hy, .inl h.symm⟩
  rcases hcase with ⟨-, hw⟩ | ⟨-, -, hw⟩ | ⟨hk, hpage, hw⟩
  · rw [hw, fbRead_fbWrite_ne s v hupper]
  · rw [hw, upperWrite, fbRead_fbWrite_ne s _ hupper]
  · have hlower : pixAddr x (y + 8) ≠ a := fun h =>
      ha ⟨hx, hy, .inr ⟨hk, hpage, h.symm.trans (pixAddr_add_fbWidth x y).symm⟩⟩
    rw [hw, lowerWrite, fbRead_fbWrite_ne _ _ hlower, upperWrite, fbRead_fbWrite_ne s _ hupper]

/-! ### BlockWrite: the pixels (R210) -/

/-- The upper store writes the rows of its page from row `y` on. -/
theorem pixel_upperWrite {x y : Nat} (hx : x < 128) (v : Byte) {s : State} (hs : s.fbWf) {i : Nat} (hi : i < 128)
    (j : Nat) :
    pixel (upperWrite x y v s) i j =
      if i = x ∧ y ≤ j ∧ j / 8 = y / 8 then v.getLsbD (j - y) else pixel s i j := by
  rw [upperWrite, pixel_fbWrite hs]
  by_cases haddr : pixAddr i j = pixAddr x y
  · obtain ⟨rfl, hpage⟩ := (pixAddr_eq_iff hi hx).1 haddr
    have hold : pixel s i j = (fbRead s (pixAddr i y)).getLsbD (j % 8) := by rw [← haddr]; rfl
    rw [if_pos haddr, hold, pixBit, getLsbD_upperByte (by omega) (by simp only [pageHeight]; omega)]
    simp only [pageHeight, hpage, true_and, and_true]
    rcases Nat.lt_or_ge j y with hj | hj
    · rw [if_pos (by omega), if_neg (by omega)]
    · rw [if_neg (by omega), if_pos hj, show j % 8 - y % 8 = j - y by omega]
  · rw [if_neg haddr, if_neg fun ⟨hcol, _, hpage⟩ => haddr ((pixAddr_eq_iff hi hx).2 ⟨hcol, hpage⟩)]

/-- The lower store writes the rows of the next page before row `y + 8`. -/
theorem pixel_lowerWrite {x y : Nat} (hx : x < 128) (v : Byte) {s : State} (hs : s.fbWf) {i : Nat} (hi : i < 128)
    (j : Nat) :
    pixel (lowerWrite x y v s) i j =
      if i = x ∧ j < y + 8 ∧ j / 8 = y / 8 + 1 then v.getLsbD (j - y) else pixel s i j := by
  rw [lowerWrite, pixel_fbWrite hs]
  by_cases haddr : pixAddr i j = pixAddr x (y + 8)
  · obtain ⟨rfl, hpage⟩ := (pixAddr_eq_iff hi hx).1 haddr
    have hold : pixel s i j = (fbRead s (pixAddr i (y + 8))).getLsbD (j % 8) := by rw [← haddr]; rfl
    rw [if_pos haddr, hold, pixBit, getLsbD_lowerByte (by omega) (by simp only [pageHeight]; omega)]
    simp only [pageHeight, true_and]
    rcases Nat.lt_or_ge j (y + 8) with hj | hj
    · rw [if_pos (by omega), if_pos (by omega), show 8 - y % 8 + j % 8 = j - y by omega]
    · rw [if_neg (by omega), if_neg (by omega)]
  · rw [if_neg haddr, if_neg fun ⟨hcol, _, hpage⟩ => haddr ((pixAddr_eq_iff hi hx).2 ⟨hcol, by omega⟩)]

/-- BlockWrite writes the rows `y` to `y + 7` of column `x` that are in the field, and no other pixel of it. -/
theorem pixel_blockWrite (x y : Nat) (v : Byte) {s : State} (hs : s.fbWf) {i j : Nat} (hi : i < 128) (hj : j < 64) :
    pixel (blockWrite x y v s) i j =
      if i = x ∧ y ≤ j ∧ j < y + 8 then v.getLsbD (j - y) else pixel s i j := by
  rcases blockWrite_cases x y v s with ⟨hout, hw⟩ | ⟨hx, hy, ⟨hk, hw⟩ | ⟨-, hpage, hw⟩ | ⟨-, hpage, hw⟩⟩
  · rw [hw, if_neg (by omega)]
  · rw [hw, pixel_fbWrite hs]
    refine ite_congr (by rw [pixAddr_eq_iff hi hx]; exact propext (by omega)) (fun h => ?_) fun _ => rfl
    rw [pixBit, pageHeight, show j % 8 = j - y by omega]
  · rw [hw, pixel_upperWrite hx v hs hi]
    exact ite_congr (propext (by omega)) (fun _ => rfl) fun _ => rfl
  · have hwf : (upperWrite x y v s).fbWf := fbWf_fbWrite hs (pixAddr_lt hx hy) _
    rw [hw, pixel_lowerWrite hx v hwf hi, pixel_upperWrite hx v hs hi]
    by_cases hlow : i = x ∧ j < y + 8 ∧ j / 8 = y / 8 + 1
    · rw [if_pos hlow, if_pos (by omega)]
    · rw [if_neg hlow]
      exact ite_congr (propext (by omega)) (fun _ => rfl) fun _ => rfl

/-- Settles O40: BLOCK is one BlockWrite. -/
theorem blockWritesEightPixels : Obligations.BlockWritesEightPixels := by
  refine ⟨encodes_of_opcode (.block 0 0 0) rfl fun _ => rfl, fun x y v s hs => ?_⟩
  exact drawsExactly_of_effect (u := blockWrite x.toNat y.toNat v s) rfl rfl (onlyFb_blockWrite ..)
    (fbWf_blockWrite _ _ _ hs) (fun _ ha => fbRead_blockWrite_of_not_stored ha v s)
    fun _ _ hi hj => pixel_blockWrite _ _ v hs hi hj

/-! ### A glyph (R214) -/

/-- The BlockWrites of a glyph's columns `l`, in order. -/
def blitList (x y : Nat) (cols : Fin 5 → Byte) (l : List (Fin 5)) (s : State) : State :=
  l.foldl (fun u c => blockWrite (x + c.val) y (cols c) u) s

theorem blitColumns_eq_blitList (x y : Nat) (cols : Fin 5 → Byte) (s : State) :
    blitColumns x y cols s = blitList x y cols (List.finRange 5) s := rfl

/-- A column that the list names has its byte's pixels. -/
theorem pixel_blitList (x y : Nat) (cols : Fin 5 → Byte) (l : List (Fin 5)) {s : State} (hs : s.fbWf) (c : Fin 5)
    {j : Nat} (hi : x + c.val < 128) (hj : j < 64) :
    pixel (blitList x y cols l s) (x + c.val) j =
      if c ∈ l ∧ y ≤ j ∧ j < y + 8 then (cols c).getLsbD (j - y) else pixel s (x + c.val) j := by
  induction l generalizing s with
  | nil => simp [blitList]
  | cons d l ih =>
    have hstep : blitList x y cols (d :: l) s = blitList x y cols l (blockWrite (x + d.val) y (cols d) s) := rfl
    rw [hstep, ih (fbWf_blockWrite _ _ _ hs), pixel_blockWrite _ _ _ hs hi hj]
    by_cases hcd : c = d
    · subst hcd
      by_cases hrows : y ≤ j ∧ j < y + 8
      · simp [hrows]
      · simp [hrows]
    · have hval : c.val ≠ d.val := fun h => hcd (Fin.ext h)
      simp [hcd, hval]

/-- Outside the glyph's columns every byte reads as before. -/
theorem fbRead_blitColumns_of_not_stored {x y a : Nat} (ha : ¬ ∃ c, c < 5 ∧ blockStores (x + c) y a)
    (cols : Fin 5 → Byte) (s : State) : fbRead (blitColumns x y cols s) a = fbRead s a :=
  fbRead_foldl_of_frame (fun _ c _ => fbRead_blockWrite_of_not_stored (fun h => ha ⟨c.val, c.isLt, h⟩) _ _) s

/-- Outside the glyph's columns every pixel is as before: its byte is not stored. -/
theorem pixel_blitColumns_of_outside {x y i j : Nat} (cols : Fin 5 → Byte) (s : State) (hi : i < 128)
    (hout : ¬ (x ≤ i ∧ i < x + 5)) : pixel (blitColumns x y cols s) i j = pixel s i j := by
  have hread : fbRead (blitColumns x y cols s) (pixAddr i j) = fbRead s (pixAddr i j) := by
    refine fbRead_blitColumns_of_not_stored ?_ cols s
    rintro ⟨c, hc, hx, -, haddr | ⟨-, -, haddr⟩⟩
    · obtain ⟨hcol, -⟩ := (pixAddr_eq_iff hi hx).1 haddr
      omega
    · obtain ⟨hcol, -⟩ := (pixAddr_eq_iff hi hx).1 (haddr.trans (pixAddr_add_fbWidth _ _))
      omega
  exact congrArg (BitVec.getLsbD · (j % 8)) hread

theorem pixel_blitColumns_of_inside {x y i j : Nat} (cols : Fin 5 → Byte) {s : State} (hs : s.fbWf) (hi : i < 128)
    (hj : j < 64) (hin : x ≤ i ∧ i < x + 5) :
    pixel (blitColumns x y cols s) i j =
      if y < 64 ∧ y ≤ j ∧ j < y + 8 then (cols ⟨i - x, by omega⟩).getLsbD (j - y) else pixel s i j := by
  obtain ⟨c, rfl⟩ := Nat.exists_eq_add_of_le hin.1
  have hblit := pixel_blitList x y cols (List.finRange 5) hs ⟨c, by omega⟩ hi hj
  rw [blitColumns_eq_blitList]
  simp only [Nat.add_sub_cancel_left]
  refine hblit.trans (ite_congr (propext ?_) (fun _ => rfl) fun _ => rfl)
  simp only [List.mem_finRange, true_and]
  omega

/-- Settles O41: inside the five columns the font's bytes, outside them nothing. -/
theorem glyphWritesFiveColumns : Obligations.GlyphWritesFiveColumns := by
  refine ⟨encodes_of_opcode (.glyph 0 0 0) rfl fun _ => rfl, fun x y ch s hs => ?_⟩
  refine drawsExactly_of_effect (u := blitColumns x.toNat y.toNat (Config.font ch) s) rfl rfl (onlyFb_blitColumns ..)
    (fbWf_blitColumns _ _ _ hs) (fun _ ha => fbRead_blitColumns_of_not_stored ha _ s) fun i j hi hj => ?_
  split
  case isTrue hin => exact pixel_blitColumns_of_inside _ hs hi hj hin
  case isFalse hout => exact pixel_blitColumns_of_outside _ s hi hout

end Sys2Proof.Machine
end

section
/-! FBCLR and RDFB (43_framebuffer.md R216, R217). -/

namespace Sys2Proof.Machine

/-- The empty memory reads as the background everywhere (10_state.md R38). -/
theorem fbRead_of_fb_nil {s : State} (h : s.fb = []) (a : Nat) : fbRead s a = 0x00 := by
  rw [fbRead, h]
  rfl

/-- Settles O42: FBCLR leaves the empty memory, RDFB only responds. -/
theorem fbclrAndRdfb : Obligations.FbclrAndRdfb :=
  ⟨encodes_of_opcode .fbclr rfl fun _ => rfl, encodes_of_opcode (.rdfb 0) rfl fun _ => rfl,
    fun s => ⟨_, exec_eq_effect_respond .fbclr s, rfl, Memory.wf_nil .., fbRead_of_fb_nil rfl⟩,
    fun imm s => exec_eq_effect_respond (.rdfb imm) s⟩

end Sys2Proof.Machine
end

section
/-! One byte at the display controller (44_display_transport.md R250 to R252; 93 U7 to U9): what a command byte does in each
state of the parser, what a data byte writes and where the pointers walk, and what stays unknown where the spec gives the
controller no behaviour. -/

namespace Sys2Proof.Machine

/-! ### A command byte, by the state of the parser (R250) -/

theorem sinkByte_of_openCommand {opc : Opcodes} {d : Display} {b : Byte} {p : Parse} (hidle : d.parse = .idle)
    (hopen : openCommand opc b = some p) (n : Nat) :
    sinkByte opc ⟨.tracked d, n⟩ ⟨.command, b⟩ = ⟨.tracked { d with parse := p }, n⟩ := by
  simp [sinkByte, sinkCommand, hidle, hopen]

theorem sinkByte_of_plainCommand {opc : Opcodes} {d e : Display} {b : Byte} (hidle : d.parse = .idle)
    (hopen : openCommand opc b = none) (hplain : plainCommand opc b d = some e) (n : Nat) :
    sinkByte opc ⟨.tracked d, n⟩ ⟨.command, b⟩ = ⟨.tracked e, n⟩ := by
  simp [sinkByte, sinkCommand, hidle, hopen, hplain]

theorem sinkByte_of_unlisted {opc : Opcodes} {d : Display} {b : Byte} (hidle : d.parse = .idle)
    (hopen : openCommand opc b = none) (hplain : plainCommand opc b d = none) (n : Nat) :
    sinkByte opc ⟨.tracked d, n⟩ ⟨.command, b⟩ = ⟨.lost, n⟩ := by
  simp [sinkByte, sinkCommand, hidle, hopen, hplain]

theorem sinkByte_of_awaitOne {d : Display} {c : OneParam} (h : d.parse = .awaitOne c) (opc : Opcodes) (n : Nat)
    (b : Byte) : sinkByte opc ⟨.tracked d, n⟩ ⟨.command, b⟩ = ⟨.tracked (d.finishOne c b), n⟩ := by
  simp [sinkByte, sinkCommand, h]

theorem sinkByte_of_awaitTwo {d : Display} {c : TwoParam} (h : d.parse = .awaitTwo c) (opc : Opcodes) (n : Nat)
    (b : Byte) :
    sinkByte opc ⟨.tracked d, n⟩ ⟨.command, b⟩ = ⟨.tracked { d with parse := .awaitSecond c b }, n⟩ := by
  simp [sinkByte, sinkCommand, h]

theorem sinkByte_of_awaitSecond {d : Display} {c : TwoParam} {v b : Byte} (h : d.parse = .awaitSecond c v)
    (hordered : inverted c v b = false) (opc : Opcodes) (n : Nat) :
    sinkByte opc ⟨.tracked d, n⟩ ⟨.command, b⟩ = ⟨.tracked (d.finishTwo c v b), n⟩ := by
  simp [sinkByte, sinkCommand, h, hordered]

theorem sinkByte_of_awaitSecond_inverted {d : Display} {c : TwoParam} {v b : Byte} (h : d.parse = .awaitSecond c v)
    (hinverted : inverted c v b = true) (opc : Opcodes) (n : Nat) :
    sinkByte opc ⟨.tracked d, n⟩ ⟨.command, b⟩ = ⟨.tracked ((d.finishTwo c v b).freePointer c n), n + 1⟩ := by
  simp [sinkByte, sinkCommand, h, hinverted]

/-- Settles O51: an idle controller by the kind of the byte, a pending command by the parameters it has. -/
theorem commandByteDrivesController : Obligations.CommandByteDrivesController := by
  intro d n b out
  refine ⟨fun hidle => ?idle, fun h => sinkByte_of_awaitOne h .., fun h => sinkByte_of_awaitOne h ..,
    fun h => sinkByte_of_awaitOne h .., fun h => sinkByte_of_awaitOne h .., fun c h => sinkByte_of_awaitTwo h ..,
    fun v h hle => ?column, fun v h hle => ?page⟩
  case idle =>
    have opens : ∀ p, openCommand Opcodes.standard b = some p → out = ⟨.tracked { d with parse := p }, n⟩ :=
      fun p h => sinkByte_of_openCommand hidle h n
    have acts : ∀ e, openCommand Opcodes.standard b = none → plainCommand Opcodes.standard b d = some e →
        out = ⟨.tracked e, n⟩ := fun e h he => sinkByte_of_plainCommand hidle h he n
    refine ⟨?_, ?_, ?_, ?_, ?_, ?_, ?_, ?_, ?_, ?_, ?_, ?_⟩ <;> rintro rfl
    iterate 6 exact opens _ rfl
    iterate 6 exact acts _ rfl rfl
  case column => exact sinkByte_of_awaitSecond h (decide_eq_false (BitVec.not_lt.2 hle)) ..
  case page => exact sinkByte_of_awaitSecond h (decide_eq_false (BitVec.not_lt.2 hle)) ..

/-! ### A data byte (R251) -/

theorem sinkByte_of_takesData {d : Display} (hidle : d.parse = .idle) (htakes : d.takesData = true) (opc : Opcodes)
    (n : Nat) (b : Byte) : sinkByte opc ⟨.tracked d, n⟩ (dataByte b) = ⟨.tracked (d.putData b), n⟩ := by
  simp [sinkData, hidle, htakes]

/-- The walk of R251: the column pointer moves to the right and wraps at the window's last column, the page pointer moves
when the column wraps, and wraps at the window's last page. -/
theorem Display.putData_eq (d : Display) (b : Byte) :
    d.putData b = { d with
      gddram := (d.putData b).gddram
      col := if d.col ≠ d.colEnd then d.col + 1 else d.colStart
      page := if d.col ≠ d.colEnd then d.page else if d.page ≠ d.pageEnd then d.page + 1 else d.pageStart } := by
  unfold Display.putData Display.advance
  split_ifs <;> rfl

/-- Settles O52: the byte is put under the pointers. -/
theorem dataByteWritesAndWalks : Obligations.DataByteWritesAndWalks := by
  intro opc d n b hidle hmode hcol hpage
  have htakes : d.takesData = true := d.takesData_iff.2 ⟨hmode, hcol, hpage⟩
  exact ⟨d.putData b, sinkByte_of_takesData hidle htakes .., d.putData_eq b, d.shows_putData b⟩

/-! ### Where the spec gives the controller no behaviour (93 U7 to U9) -/

theorem sinkByte_data_of_not_takesData {d : Display} (hidle : d.parse = .idle) (htakes : d.takesData = false)
    (opc : Opcodes) (n : Nat) (b : Byte) :
    sinkByte opc ⟨.tracked d, n⟩ ⟨.data, b⟩ = ⟨.tracked (d.scatter n), n + 1⟩ := by
  simp [sinkByte, sinkData, hidle, htakes]

theorem sinkByte_data_of_pending {d : Display} (hpending : d.parse ≠ .idle) (opc : Opcodes) (n : Nat) (b : Byte) :
    sinkByte opc ⟨.tracked d, n⟩ ⟨.data, b⟩ = ⟨.lost, n⟩ := by
  simp [sinkByte, sinkData, hpending]

/-- A byte outside the list of 30_encoding.md R113 neither opens a command nor acts at once. -/
theorem openCommand_plainCommand_of_unlisted {opc : Opcodes} {b : Byte}
    (h : b ∉ [opc.displayOff, opc.displayOn, opc.contrast, opc.segRemap0, opc.segRemap1, opc.comScanInc, opc.comScanDec,
      opc.muxRatio, opc.addrMode, opc.chargePump, opc.colAddr, opc.pageAddr]) (d : Display) :
    openCommand opc b = none ∧ plainCommand opc b d = none := by
  simp only [List.mem_cons, List.not_mem_nil, or_false, not_or] at h
  simp [openCommand, plainCommand, h]

/-- Settles O53: a scattered write, an inverted window by its axis, and the three ways to lose the controller. -/
theorem unspecifiedDisplayEventsStayOpen : Obligations.UnspecifiedDisplayEventsStayOpen := by
  refine fun opc d n b => ⟨fun hidle hout => ?scatter, fun v h hlt => ?column, fun v h hlt => ?page,
    fun hpending => sinkByte_data_of_pending hpending .., fun hidle hunlisted => ?unlisted, fun t => rfl⟩
  case scatter =>
    have htakes : d.takesData = false := Bool.eq_false_iff.2 (mt d.takesData_iff.1 hout)
    exact ⟨_, sinkByte_data_of_not_takesData hidle htakes .., rfl, fun a => rfl⟩
  case column => exact ⟨_, sinkByte_of_awaitSecond_inverted h (decide_eq_true hlt) .., rfl⟩
  case page => exact ⟨_, sinkByte_of_awaitSecond_inverted h (decide_eq_true hlt) .., rfl⟩
  case unlisted =>
    obtain ⟨hopen, hplain⟩ := openCommand_plainCommand_of_unlisted hunlisted d
    exact sinkByte_of_unlisted hidle hopen hplain n

end Sys2Proof.Machine
end

section
/-! What the transport commands send (44_display_transport.md R230 to R236): each command is one transmission, RFREG's burst
as one list, and what DINIT's sequence does to the controller. -/

namespace Sys2Proof.Machine

/-! ### A command that transmits (20_memory.md R74) -/

/-- A transmission logs its bytes, the controller consumes them, and the response is 0. -/
theorem exec_of_transmit {i : Instr} {s : State} {bytes : List TxByte} (heffect : effect s i = s.transmit bytes)
    (hresponse : responseWord s i = 0x0000) :
    exec i s = .next { s with
      txlog := s.txlog ++ bytes, sink := sinkBytes s.cfg.opc s.sink bytes, resps := s.resps ++ [0x0000] } := by
  rw [exec_eq_effect_respond, heffect, hresponse]
  rfl

/-- A command that sends nothing only responds. -/
theorem exec_of_transmit_nil {i : Instr} {s : State} (heffect : effect s i = s.transmit [])
    (hresponse : responseWord s i = 0x0000) : exec i s = .next { s with resps := s.resps ++ [0x0000] } := by
  rw [exec_eq_effect_respond, heffect, hresponse, State.transmit_nil]
  rfl

/-- Settles O43: each command transmits a list of one byte. -/
theorem txBytesAreLoggedAndConsumed : Obligations.TxBytesAreLoggedAndConsumed :=
  ⟨encodes_of_opcode (.txcmd 0) rfl fun _ => rfl, encodes_of_opcode (.txdat 0) rfl fun _ => rfl,
    fun _ _ => ⟨exec_of_transmit rfl rfl, exec_of_transmit rfl rfl⟩⟩

/-- Settles O44: the bytes are those RFALL transmits. -/
theorem rfallSendsWholeFramebuffer : Obligations.RfallSendsWholeFramebuffer := by
  refine ⟨encodes_of_opcode .rfall rfl fun _ => rfl, fun s => ⟨?_, exec_of_transmit rfl rfl⟩⟩
  simp only [List.length_append, List.length_map, List.length_range, List.length_cons, List.length_nil]

/-! ### RFPX (R234) -/

theorem refreshPixelBytes_of_lt (s : State) {x : Nat} (hx : x < 128) (y : Nat) :
    refreshPixelBytes s x y =
      setWindow s.cfg.opc x x (pageOf y) (pageOf y) ++ [dataByte (fbRead s (x + pageOf y * 128))] :=
  if_pos hx

theorem refreshPixelBytes_of_le (s : State) {x : Nat} (hx : 128 ≤ x) (y : Nat) : refreshPixelBytes s x y = [] :=
  if_neg (Nat.not_lt.2 hx)

/-- Settles O45: the one-byte window inside the display, the empty transmission outside. -/
theorem rfpxSendsOneByte : Obligations.RfpxSendsOneByte := by
  refine ⟨encodes_of_opcode (.rfpx 0 0) rfl fun _ => rfl, fun x y s => ⟨fun hx => ?inside, fun hx => ?outside⟩⟩
  case inside =>
    refine exec_of_transmit ((congrArg s.transmit (refreshPixelBytes_of_lt s hx y.toNat)).trans ?_) rfl
    simp only [setWindow, BitVec.ofNat_toNat, BitVec.setWidth_eq]
    rfl
  case outside => exact exec_of_transmit_nil (congrArg s.transmit (refreshPixelBytes_of_le s hx y.toNat)) rfl

/-! ### RFREG (R235) -/

/-- A double loop as one list: `w` steps of the inner loop to each of the outer. -/
theorem flatMap_range_map_range {α : Type} (w m : Nat) (f : Nat → Nat → α) :
    ((List.range m).flatMap fun i => (List.range w).map (f i)) =
      (List.range (w * m)).map fun k => f (k / w) (k % w) := by
  induction m with
  | zero => rfl
  | succ m ih =>
    rw [List.range_succ, List.flatMap_append, ih, Nat.mul_succ, List.range_add, List.map_append, List.map_map,
      List.flatMap_singleton]
    refine congrArg _ (List.map_congr_left fun j hj => ?_)
    have hj : j < w := List.mem_range.1 hj
    have hdiv : (w * m + j) / w = m := by rw [Nat.mul_add_div (by omega), Nat.div_eq_of_lt hj, Nat.add_zero]
    have hmod : (w * m + j) % w = j := by rw [Nat.mul_add_mod, Nat.mod_eq_of_lt hj]
    rw [Function.comp_apply, hdiv, hmod]

/-- The burst of a rectangle as one list, page by page (R235). -/
theorem regionData_eq (s : State) (c0 c1 p0 p1 : Nat) :
    regionData s c0 c1 p0 p1 = (List.range ((c1 + 1 - c0) * (p1 + 1 - p0))).map fun k =>
      dataByte (fbRead s (c0 + k % (c1 + 1 - c0) + (p0 + k / (c1 + 1 - c0)) * 128)) :=
  flatMap_range_map_range ..

theorem refreshRegionBytes_of_lt (s : State) {x0 x1 : Nat} (h0 : x0 < 128) (h1 : x1 < 128) (y0 y1 : Nat) :
    refreshRegionBytes s x0 y0 x1 y1 =
      setWindow s.cfg.opc (min x0 x1) (max x0 x1) (pageOf (min y0 y1)) (pageOf (max y0 y1)) ++
        regionData s (min x0 x1) (max x0 x1) (pageOf (min y0 y1)) (pageOf (max y0 y1)) :=
  if_pos ⟨h0, h1⟩

theorem refreshRegionBytes_of_le (s : State) {x0 x1 : Nat} (h : 128 ≤ x0 ∨ 128 ≤ x1) (y0 y1 : Nat) :
    refreshRegionBytes s x0 y0 x1 y1 = [] :=
  if_neg fun hin => by simp only [fbWidth] at hin; omega

/-- Settles O46: the burst as one list has the length of the rectangle, which is 0 for inverted pages. -/
theorem rfregSendsRectangle : Obligations.RfregSendsRectangle := by
  refine ⟨encodes_of_opcode (.rfreg 0 0 0 0) rfl fun _ => rfl, fun x0 y0 x1 y1 s => ?_⟩
  intro c0 c1 p0 p1 width n bytes
  refine ⟨fun ⟨h0, h1⟩ => ?inside, fun hout => ?outside⟩
  case inside =>
    have hwidth : c1 + 1 - c0 = width := by omega
    have hcount : width * (p1 + 1 - p0) = n := by
      rcases le_or_gt p0 p1 with hp | hp
      · rw [Nat.sub_add_comm hp]
        exact (if_pos hp).symm
      · rw [Nat.sub_eq_zero_of_le hp, Nat.mul_zero]
        exact (if_neg (Nat.not_le.2 hp)).symm
    have hburst : regionData s c0 c1 p0 p1 =
        (List.range n).map fun k => dataByte (fbRead s (c0 + k % width + (p0 + k / width) * 128)) := by
      rw [regionData_eq, hwidth, hcount]
    have hbytes : refreshRegionBytes s x0.toNat y0.toNat x1.toNat y1.toNat = bytes :=
      (refreshRegionBytes_of_lt s h0 h1 y0.toNat y1.toNat).trans (congrArg (setWindow s.cfg.opc c0 c1 p0 p1 ++ ·) hburst)
    exact exec_of_transmit (congrArg s.transmit hbytes) rfl
  case outside =>
    exact exec_of_transmit_nil (congrArg s.transmit (refreshRegionBytes_of_le s hout y0.toNat y1.toNat)) rfl

/-! ### DINIT (R236) -/

/-- A command of one parameter, both bytes of it, on an idle controller. -/
theorem sinkBytes_oneParam {opc : Opcodes} {d : Display} {b : Byte} {c : OneParam} (hidle : d.parse = .idle)
    (hopen : openCommand opc b = some (.awaitOne c)) (n : Nat) (v : Byte) (ts : List TxByte) :
    sinkBytes opc ⟨.tracked d, n⟩ (⟨.command, b⟩ :: ⟨.command, v⟩ :: ts) =
      sinkBytes opc ⟨.tracked (d.finishOne c v), n⟩ ts := by
  rw [sinkBytes_cons, sinkBytes_cons, sinkByte_of_openCommand hidle hopen, sinkByte_of_awaitOne rfl]
  cases c <;> rfl

/-- A command without parameters on an idle controller. -/
theorem sinkBytes_plain {opc : Opcodes} {d e : Display} {b : Byte} (hidle : d.parse = .idle)
    (hopen : openCommand opc b = none) (hplain : plainCommand opc b d = some e) (n : Nat) (ts : List TxByte) :
    sinkBytes opc ⟨.tracked d, n⟩ (⟨.command, b⟩ :: ts) = sinkBytes opc ⟨.tracked e, n⟩ ts := by
  rw [sinkBytes_cons, sinkByte_of_plainCommand hidle hopen hplain]

/-- The controller after the default DINIT_SEQ (30_encoding.md R114). -/
def Display.initialised (d : Display) : Display :=
  { d with on := 1, contrast := 0x7F, segRemap := 1, comScan := 1, mux := 0x3F, addrMode := 0, pump := 1 }

/-- The default sequence, command by command (30_encoding.md R114): power off, contrast, segment remap, COM scan,
multiplex ratio, addressing mode, charge pump, power on. -/
theorem sinkBytes_standardInitSequence {d : Display} (hidle : d.parse = .idle) (n : Nat) :
    sinkBytes Opcodes.standard ⟨.tracked d, n⟩ (standardInitSequence.map cmdByte) = ⟨.tracked d.initialised, n⟩ := by
  have hsplit : standardInitSequence.map cmdByte =
      [⟨.command, 0xAE⟩, ⟨.command, 0x81⟩, ⟨.command, 0x7F⟩, ⟨.command, 0xA1⟩, ⟨.command, 0xC8⟩, ⟨.command, 0xA8⟩,
        ⟨.command, 0x3F⟩, ⟨.command, 0x20⟩, ⟨.command, 0x00⟩, ⟨.command, 0x8D⟩, ⟨.command, 0x14⟩, ⟨.command, 0xAF⟩] := rfl
  have hd : d = { d with parse := .idle } := by rw [← hidle]
  rw [hd, hsplit, sinkBytes_plain rfl rfl rfl, sinkBytes_oneParam rfl rfl, sinkBytes_plain rfl rfl rfl,
    sinkBytes_plain rfl rfl rfl, sinkBytes_oneParam rfl rfl, sinkBytes_oneParam rfl rfl, sinkBytes_oneParam rfl rfl,
    sinkBytes_plain rfl rfl rfl, sinkBytes_nil]
  rfl

/-- Settles O47: the same sequence leads from every idle controller to the same registers, so a second one changes
nothing. -/
theorem dinitSelectsHorizontalMode : Obligations.DinitSelectsHorizontalMode := by
  refine ⟨encodes_of_opcode .dinit rfl fun _ => rfl, rfl, fun s => exec_of_transmit rfl rfl,
    fun s d hctrl hidle hopc hseq => ?_⟩
  have hsink : s.sink = ⟨.tracked d, s.sink.freeCount⟩ := by rw [← hctrl]
  have hbytes : initBytes s = standardInitSequence.map cmdByte := congrArg (List.map cmdByte) hseq
  have hfirst : sinkBytes s.cfg.opc s.sink (initBytes s) = ⟨.tracked d.initialised, s.sink.freeCount⟩ := by
    rw [hopc, hbytes, hsink]
    exact sinkBytes_standardInitSequence hidle _
  have hagain : sinkBytes s.cfg.opc ⟨.tracked d.initialised, s.sink.freeCount⟩ (initBytes s) =
      ⟨.tracked d.initialised, s.sink.freeCount⟩ := by
    rw [hopc, hbytes]
    exact sinkBytes_standardInitSequence (d := d.initialised) hidle _
  refine ⟨_, _, exec_eq_effect_respond .dinit s, hfirst, exec_eq_effect_respond .dinit _, ?_⟩
  exact (congrArg (sinkBytes s.cfg.opc · (initBytes s)) hfirst).trans (hagain.trans hfirst.symm)

end Sys2Proof.Machine
end

section
/-! What a refresh guarantees (44_display_transport.md R253): the pointers walk the programmed window byte by byte, so each
byte of a burst lands on the address it was read from, and after the whole burst they are back at the window's start. -/

namespace Sys2Proof.Machine

/-! ### A list of data bytes (R251) -/

@[simp] theorem Display.putData_addrMode (d : Display) (b : Byte) : (d.putData b).addrMode = d.addrMode := by
  simp [Display.putData]

@[simp] theorem Display.putData_colStart (d : Display) (b : Byte) : (d.putData b).colStart = d.colStart := by
  simp [Display.putData]

@[simp] theorem Display.putData_colEnd (d : Display) (b : Byte) : (d.putData b).colEnd = d.colEnd := by
  simp [Display.putData]

@[simp] theorem Display.putData_pageStart (d : Display) (b : Byte) : (d.putData b).pageStart = d.pageStart := by
  simp [Display.putData]

@[simp] theorem Display.putData_pageEnd (d : Display) (b : Byte) : (d.putData b).pageEnd = d.pageEnd := by
  simp [Display.putData]

/-- Data bytes written one after the other. -/
def Display.putList (d : Display) (bs : List Byte) : Display := bs.foldl Display.putData d

@[simp] theorem Display.putList_cons (d : Display) (b : Byte) (bs : List Byte) :
    d.putList (b :: bs) = (d.putData b).putList bs := rfl

theorem Display.putList_concat (d : Display) (bs : List Byte) (b : Byte) :
    d.putList (bs ++ [b]) = (d.putList bs).putData b := List.foldl_concat ..

@[simp] theorem Display.putList_parse (d : Display) (bs : List Byte) : (d.putList bs).parse = d.parse := by
  induction bs generalizing d with
  | nil => rfl
  | cons b bs ih => rw [Display.putList_cons, ih, Display.putData_parse]

@[simp] theorem Display.putList_addrMode (d : Display) (bs : List Byte) : (d.putList bs).addrMode = d.addrMode := by
  induction bs generalizing d with
  | nil => rfl
  | cons b bs ih => rw [Display.putList_cons, ih, Display.putData_addrMode]

/-- A controller that takes one data byte takes any number of them. -/
theorem sinkBytes_dataBytes {d : Display} (hidle : d.parse = .idle) (htakes : d.takesData = true) (opc : Opcodes)
    (n : Nat) (bs : List Byte) : sinkBytes opc ⟨.tracked d, n⟩ (bs.map dataByte) = ⟨.tracked (d.putList bs), n⟩ := by
  induction bs generalizing d with
  | nil => rfl
  | cons b bs ih =>
    rw [List.map_cons, sinkBytes_cons, sinkByte_of_takesData hidle htakes, Display.putList_cons]
    exact ih (by simpa using hidle) (by simpa using htakes)

/-! ### The walk through a window -/

/-- The address of byte `k` of the window whose columns are `c0` to `c1` and whose first page is `p0`, counted along the
pages. -/
def windowAddress (c0 c1 p0 k : Nat) : Nat := c0 + k % (c1 + 1 - c0) + (p0 + k / (c1 + 1 - c0)) * fbWidth

/-- The window is columns `c0` to `c1` of pages `p0` to `p1`, and the pointers are on its byte `k`. -/
structure Display.AtByte (d : Display) (c0 c1 p0 p1 k : Nat) : Prop where
  colStart : d.colStart.toNat = c0
  colEnd : d.colEnd.toNat = c1
  pageStart : d.pageStart.toNat = p0
  pageEnd : d.pageEnd.toNat = p1
  col : d.col.toNat = c0 + k % (c1 + 1 - c0)
  page : d.page.toNat = p0 + k / (c1 + 1 - c0)

theorem Display.AtByte.address {d : Display} {c0 c1 p0 p1 k : Nat} (h : d.AtByte c0 c1 p0 p1 k) :
    d.address = windowAddress c0 c1 p0 k := by
  rw [Display.address, h.col, h.page, windowAddress]

/-- From byte `k` of `h` lines of width `w` to the next, around the end: along the line, to the next line, or back to the
start. -/
theorem next_byte_cases {w h k : Nat} (hk : k < w * h) :
    (k % w + 1 < w ∧ (k + 1) % (w * h) % w = k % w + 1 ∧ (k + 1) % (w * h) / w = k / w) ∨
      (k % w + 1 = w ∧ k / w + 1 < h ∧ (k + 1) % (w * h) % w = 0 ∧ (k + 1) % (w * h) / w = k / w + 1) ∨
      (k % w + 1 = w ∧ k / w + 1 = h ∧ (k + 1) % (w * h) % w = 0 ∧ (k + 1) % (w * h) / w = 0) := by
  have hw : 0 < w := Nat.pos_of_mul_pos_right (by omega : 0 < w * h)
  have hcol : k % w < w := Nat.mod_lt k hw
  have hline : k / w + 1 ≤ h := Nat.div_lt_of_lt_mul hk
  have hsplit : w * (k / w) + k % w = k := Nat.div_add_mod k w
  have hnext : w * (k / w + 1) = w * (k / w) + w := Nat.mul_succ ..
  have hlines : w * (k / w + 1) ≤ w * h := Nat.mul_le_mul_left w hline
  rcases Nat.lt_or_ge (k % w + 1) w with hinside | hend
  · have hstep : k + 1 = w * (k / w) + (k % w + 1) := by omega
    rw [Nat.mod_eq_of_lt (by omega : k + 1 < w * h), hstep, Nat.mul_add_mod, Nat.mul_add_div hw,
      Nat.mod_eq_of_lt hinside, Nat.div_eq_of_lt hinside]
    exact .inl ⟨hinside, rfl, rfl⟩
  · have hstep : k + 1 = w * (k / w + 1) := by omega
    rcases Nat.lt_or_ge (k / w + 1) h with hmore | hlast
    · have hlt : w * (k / w + 1) < w * h := Nat.mul_lt_mul_of_pos_left hmore hw
      rw [hstep, Nat.mod_eq_of_lt hlt, Nat.mul_mod_right, Nat.mul_div_cancel_left _ hw]
      exact .inr (.inl ⟨by omega, hmore, rfl, rfl⟩)
    · have hh : k / w + 1 = h := by omega
      rw [hstep, hh, Nat.mod_self, Nat.zero_mod, Nat.zero_div]
      exact .inr (.inr ⟨by omega, rfl, rfl, rfl⟩)

/-- A pointer below its end moves without wrapping. -/
theorem toNat_add_one_of_lt {w : Nat} {x y : BitVec w} (h : x.toNat < y.toNat) : (x + 1).toNat = x.toNat + 1 := by
  have hy := y.isLt
  have hone : (1 : BitVec w).toNat = 1 % 2 ^ w := rfl
  rw [BitVec.toNat_add, hone, Nat.add_mod_mod, Nat.mod_eq_of_lt (by omega)]

/-- One data byte takes the pointers to the next byte of the window, from the last to the first (R251). -/
theorem Display.AtByte.putData {d : Display} {c0 c1 p0 p1 k : Nat} (h : d.AtByte c0 c1 p0 p1 k)
    (hk : k < (c1 + 1 - c0) * (p1 + 1 - p0)) (b : Byte) :
    (d.putData b).AtByte c0 c1 p0 p1 ((k + 1) % ((c1 + 1 - c0) * (p1 + 1 - p0))) := by
  obtain ⟨hcs, hce, hps, hpe, hcol, hpage⟩ := h
  have hcolIff : d.col = d.colEnd ↔ d.col.toNat = d.colEnd.toNat := BitVec.toNat_inj.symm
  have hpageIff : d.page = d.pageEnd ↔ d.page.toNat = d.pageEnd.toNat := BitVec.toNat_inj.symm
  have hwalk : (d.putData b).col.toNat = c0 + (k + 1) % ((c1 + 1 - c0) * (p1 + 1 - p0)) % (c1 + 1 - c0) ∧
      (d.putData b).page.toNat = p0 + (k + 1) % ((c1 + 1 - c0) * (p1 + 1 - p0)) / (c1 + 1 - c0) := by
    have hcases := next_byte_cases hk
    rw [Display.putData_eq]
    generalize k % (c1 + 1 - c0) = i, k / (c1 + 1 - c0) = j, (k + 1) % _ % (c1 + 1 - c0) = i',
      (k + 1) % _ / (c1 + 1 - c0) = j' at hcases hcol hpage ⊢
    rcases hcases with ⟨hin, rfl, rfl⟩ | ⟨hend, hmore, rfl, rfl⟩ | ⟨hend, hlast, rfl, rfl⟩
    · have hne : d.col ≠ d.colEnd := by rw [ne_eq, hcolIff]; omega
      rw [if_pos hne, if_pos hne, toNat_add_one_of_lt (y := d.colEnd) (by omega), hcol]
      exact ⟨Nat.add_assoc .., hpage⟩
    · have heq : ¬ d.col ≠ d.colEnd := by rw [not_not, hcolIff]; omega
      have hne : d.page ≠ d.pageEnd := by rw [ne_eq, hpageIff]; omega
      rw [if_neg heq, if_neg heq, if_pos hne, toNat_add_one_of_lt (y := d.pageEnd) (by omega), hpage]
      exact ⟨hcs, Nat.add_assoc ..⟩
    · have heq : ¬ d.col ≠ d.colEnd := by rw [not_not, hcolIff]; omega
      have heq' : ¬ d.page ≠ d.pageEnd := by rw [not_not, hpageIff]; omega
      rw [if_neg heq, if_neg heq, if_neg heq']
      exact ⟨hcs, hps⟩
  exact ⟨by rwa [Display.putData_colStart], by rwa [Display.putData_colEnd], by rwa [Display.putData_pageStart],
    by rwa [Display.putData_pageEnd], hwalk.1, hwalk.2⟩

/-- The first `k` bytes of a burst that takes each byte of the window from its own address in `f`. -/
def windowBytes (f : Nat → Byte) (c0 c1 p0 k : Nat) : List Byte :=
  (List.range k).map fun j => f (windowAddress c0 c1 p0 j)

theorem windowBytes_succ (f : Nat → Byte) (c0 c1 p0 k : Nat) :
    windowBytes f c0 c1 p0 (k + 1) = windowBytes f c0 c1 p0 k ++ [f (windowAddress c0 c1 p0 k)] := by
  rw [windowBytes, List.range_succ, List.map_append]
  rfl

/-- After `k` bytes from the window's start the pointers are on byte `k`, after all of them back at the start. -/
theorem Display.AtByte.putList_windowBytes {d : Display} {c0 c1 p0 p1 : Nat} (h : d.AtByte c0 c1 p0 p1 0)
    (f : Nat → Byte) {k : Nat} (hk : k ≤ (c1 + 1 - c0) * (p1 + 1 - p0)) :
    (d.putList (windowBytes f c0 c1 p0 k)).AtByte c0 c1 p0 p1 (k % ((c1 + 1 - c0) * (p1 + 1 - p0))) := by
  induction k with
  | zero => rwa [Nat.zero_mod]
  | succ k ih =>
    have hat := ih (by omega)
    rw [Nat.mod_eq_of_lt hk] at hat
    rw [windowBytes_succ, Display.putList_concat]
    exact hat.putData hk _

/-- The bytes written are those at the burst's addresses, each with its own byte of `f`; no other changes. -/
theorem Display.AtByte.shows_putList_windowBytes {d : Display} {c0 c1 p0 p1 : Nat} (h : d.AtByte c0 c1 p0 p1 0)
    (f : Nat → Byte) {k : Nat} (hk : k ≤ (c1 + 1 - c0) * (p1 + 1 - p0)) (a : Nat) :
    (d.putList (windowBytes f c0 c1 p0 k)).shows a =
      if ∃ j < k, a = windowAddress c0 c1 p0 j then some (f a) else d.shows a := by
  induction k with
  | zero => simp [windowBytes, Display.putList]
  | succ k ih =>
    have hat := h.putList_windowBytes f (Nat.le_of_succ_le hk)
    rw [Nat.mod_eq_of_lt hk] at hat
    rw [windowBytes_succ, Display.putList_concat, Display.shows_putData, hat.address, ih (Nat.le_of_succ_le hk)]
    by_cases hnow : a = windowAddress c0 c1 p0 k
    · rw [if_pos hnow, if_pos ⟨k, Nat.lt_succ_self k, hnow⟩, hnow]
    · simp only [Nat.exists_lt_succ_right, hnow, or_false, if_false]

/-! ### The rectangle of a window -/

/-- The addresses of columns `c0` to `c1` of pages `p0` to `p1`. -/
def InRectangle (c0 c1 p0 p1 a : Nat) : Prop :=
  ∃ c p, c0 ≤ c ∧ c ≤ c1 ∧ p0 ≤ p ∧ p ≤ p1 ∧ a = c + p * 128

/-- The walk passes exactly the rectangle. -/
theorem windowAddress_iff_inRectangle {c0 c1 p0 p1 : Nat} (hc : c0 ≤ c1) (hp : p0 ≤ p1) (a : Nat) :
    (∃ k < (c1 + 1 - c0) * (p1 + 1 - p0), a = windowAddress c0 c1 p0 k) ↔ InRectangle c0 c1 p0 p1 a := by
  have hw : 0 < c1 + 1 - c0 := by omega
  constructor
  · rintro ⟨k, hk, rfl⟩
    have hcol := Nat.mod_lt k hw
    have hpage := Nat.div_lt_of_lt_mul hk
    exact ⟨_, _, Nat.le_add_right .., by omega, Nat.le_add_right .., by omega, rfl⟩
  · rintro ⟨c, p, hc0, hc1, hp0, hp1, rfl⟩
    obtain ⟨i, rfl⟩ := Nat.exists_eq_add_of_le hc0
    obtain ⟨j, rfl⟩ := Nat.exists_eq_add_of_le hp0
    have hi : i < c1 + 1 - c0 := by omega
    have hj : j + 1 ≤ p1 + 1 - p0 := by omega
    refine ⟨(c1 + 1 - c0) * j + i, ?_, ?_⟩
    · calc (c1 + 1 - c0) * j + i < (c1 + 1 - c0) * (j + 1) := by rw [Nat.mul_succ]; omega
        _ ≤ (c1 + 1 - c0) * (p1 + 1 - p0) := Nat.mul_le_mul_left _ hj
    · rw [windowAddress, Nat.mul_add_mod, Nat.mul_add_div hw, Nat.mod_eq_of_lt hi, Nat.div_eq_of_lt hi, Nat.add_zero]

/-! ### The window and its burst (R253) -/

/-- R253: `e` is `d` after a refresh of the window from the framebuffer `f`. -/
structure Display.Refreshed (d e : Display) (f : Nat → Byte) (c0 c1 p0 p1 : Nat) : Prop where
  inside : ∀ a, InRectangle c0 c1 p0 p1 a → e.shows a = some (f a)
  outside : ∀ a, ¬ InRectangle c0 c1 p0 p1 a → e.shows a = d.shows a
  col : e.col.toNat = c0
  page : e.page.toNat = p0
  idle : e.parse = .idle
  mode : e.addrMode = 0

/-- The whole burst from the window's start refreshes the rectangle. -/
theorem Display.AtByte.refreshed {d : Display} {c0 c1 p0 p1 : Nat} (h : d.AtByte c0 c1 p0 p1 0) (hc : c0 ≤ c1)
    (hp : p0 ≤ p1) (hidle : d.parse = .idle) (hmode : d.addrMode = 0) (f : Nat → Byte) :
    d.Refreshed (d.putList (windowBytes f c0 c1 p0 ((c1 + 1 - c0) * (p1 + 1 - p0)))) f c0 c1 p0 p1 := by
  have hwalk := windowAddress_iff_inRectangle hc hp
  have hshows := h.shows_putList_windowBytes f le_rfl
  have hend := h.putList_windowBytes f le_rfl
  rw [Nat.mod_self] at hend
  exact
    { inside := fun a ha => (hshows a).trans (if_pos ((hwalk a).2 ha))
      outside := fun a ha => (hshows a).trans (if_neg (mt (hwalk a).1 ha))
      col := by rw [hend.col, Nat.zero_mod, Nat.add_zero]
      page := by rw [hend.page, Nat.zero_div, Nat.add_zero]
      idle := (d.putList_parse _).trans hidle
      mode := (d.putList_addrMode _).trans hmode }

/-- The controller with the window set and the pointers at its start. -/
def Display.withWindow (d : Display) (c0 c1 p0 p1 : Nat) : Display :=
  { d with
    colStart := BitVec.ofNat 7 c0, colEnd := BitVec.ofNat 7 c1, col := BitVec.ofNat 7 c0
    pageStart := BitVec.ofNat 3 p0, pageEnd := BitVec.ofNat 3 p1, page := BitVec.ofNat 3 p0
    parse := .idle }

theorem Display.withWindow_atByte (d : Display) {c0 c1 p0 p1 : Nat} (hc : c0 ≤ c1) (hc1 : c1 < 128) (hp : p0 ≤ p1)
    (hp1 : p1 < 8) : (d.withWindow c0 c1 p0 p1).AtByte c0 c1 p0 p1 0 := by
  have hcol : ∀ c, c ≤ c1 → (BitVec.ofNat 7 c).toNat = c := fun c h => Nat.mod_eq_of_lt (by omega)
  have hpage : ∀ p, p ≤ p1 → (BitVec.ofNat 3 p).toNat = p := fun p h => Nat.mod_eq_of_lt (by omega)
  refine ⟨hcol c0 hc, hcol c1 le_rfl, hpage p0 hp, hpage p1 le_rfl, ?_, ?_⟩
  · rw [Nat.zero_mod]
    exact hcol c0 hc
  · rw [Nat.zero_div]
    exact hpage p0 hp

theorem Display.AtByte.takesData {d : Display} {c0 c1 p0 p1 k : Nat} (h : d.AtByte c0 c1 p0 p1 k) (hc : c0 ≤ c1)
    (hp : p0 ≤ p1) (hmode : d.addrMode = 0) : d.takesData = true := by
  rw [Display.takesData_iff, BitVec.le_def, BitVec.le_def, h.colStart, h.colEnd, h.pageStart, h.pageEnd]
  exact ⟨hmode, hc, hp⟩

theorem regionData_eq_windowBytes (s : State) (c0 c1 p0 p1 : Nat) :
    regionData s c0 c1 p0 p1 =
      (windowBytes (fbRead s) c0 c1 p0 ((c1 + 1 - c0) * (p1 + 1 - p0))).map dataByte := by
  rw [regionData_eq, windowBytes, List.map_map]
  rfl

/-- A window and its burst refresh the rectangle, from any display that R253 allows. -/
theorem refreshed_of_window_and_burst {s : State} {d : Display} (hready : s.displayReady d) {c0 c1 p0 p1 : Nat}
    (hc : c0 ≤ c1) (hc1 : c1 < 128) (hp : p0 ≤ p1) (hp1 : p1 < 8) :
    ∃ e, sinkBytes s.cfg.opc s.sink (setWindow s.cfg.opc c0 c1 p0 p1 ++ regionData s c0 c1 p0 p1) =
        ⟨.tracked e, s.sink.freeCount⟩ ∧
      d.Refreshed e (fbRead s) c0 c1 p0 p1 := by
  obtain ⟨hctrl, hmode, hidle, hopc⟩ := hready
  have hsink : s.sink = ⟨.tracked d, s.sink.freeCount⟩ := by rw [← hctrl]
  have hstart := d.withWindow_atByte hc hc1 hp hp1
  have htakes := hstart.takesData hc hp hmode
  have hrefreshed := hstart.refreshed hc hp rfl hmode (fbRead s)
  refine ⟨_, ?_, { hrefreshed with outside := hrefreshed.outside }⟩
  rw [hopc, hsink, sinkBytes_append, sinkBytes_setWindow hidle _ hc hc1 hp hp1, regionData_eq_windowBytes]
  exact sinkBytes_dataBytes rfl htakes ..

/-- A command that sends a window and its burst refreshes the display from the framebuffer, which it leaves as it is. -/
theorem exec_refreshes {i : Instr} {s : State} {d : Display} (hready : s.displayReady d) {c0 c1 p0 p1 : Nat}
    (hc : c0 ≤ c1) (hc1 : c1 < 128) (hp : p0 ≤ p1) (hp1 : p1 < 8)
    (heffect : effect s i = s.transmit (setWindow s.cfg.opc c0 c1 p0 p1 ++ regionData s c0 c1 p0 p1)) :
    ∃ t e, exec i s = .next t ∧ t.sink = ⟨.tracked e, s.sink.freeCount⟩ ∧ d.Refreshed e (fbRead t) c0 c1 p0 p1 := by
  obtain ⟨e, hsink, hrefreshed⟩ := refreshed_of_window_and_burst hready hc hc1 hp hp1
  refine ⟨_, e, exec_eq_effect_respond i s, ?_, ?_⟩ <;> rw [heffect]
  · exact hsink
  · exact hrefreshed

/-! ### RFREG, RFPX and RFALL -/

theorem pageOf_lt (y : Nat) : pageOf y < 8 := Nat.mod_lt _ (by decide)

/-- Settles O50: RFREG sends its rectangle. -/
theorem refreshRegionShowsRectangle : Obligations.RefreshRegionShowsRectangle := by
  intro s d x0 y0 x1 y1 hready h0 h1 c0 c1 p0 p1 hp
  have heffect := congrArg s.transmit (refreshRegionBytes_of_lt s h0 h1 y0.toNat y1.toNat)
  obtain ⟨t, e, hexec, hsink, hrefreshed⟩ := exec_refreshes (i := .rfreg x0 y0 x1 y1) hready (min_le_max : c0 ≤ c1)
    (max_lt h0 h1) hp (pageOf_lt _) heffect
  refine ⟨t, e, hexec, hsink, fun c p hc0 hc1 hp0 hp1 => ?_, fun a ha => ?_, hrefreshed.col, hrefreshed.page,
    hrefreshed.idle, hrefreshed.mode⟩
  · exact hrefreshed.inside _ ⟨c, p, hc0, hc1, hp0, hp1, rfl⟩
  · exact hrefreshed.outside a fun ⟨c, p, hc0, hc1, hp0, hp1, haddr⟩ => ha c p hc0 hc1 hp0 hp1 haddr

theorem inRectangle_single_iff (x p a : Nat) : InRectangle x x p p a ↔ a = x + p * 128 := by
  constructor
  · rintro ⟨c, q, hc0, hc1, hq0, hq1, rfl⟩
    rw [le_antisymm hc1 hc0, le_antisymm hq1 hq0]
  · rintro rfl
    exact ⟨x, p, le_rfl, le_rfl, le_rfl, le_rfl, rfl⟩

theorem regionData_single (s : State) (x p : Nat) : regionData s x x p p = [dataByte (fbRead s (x + p * 128))] := by
  rw [regionData, Nat.add_sub_cancel_left, Nat.add_sub_cancel_left]
  rfl

/-- Settles O49: RFPX sends the rectangle of one byte. -/
theorem refreshPixelShowsByte : Obligations.RefreshPixelShowsByte := by
  intro s d x y hready hx a
  have hbytes := refreshPixelBytes_of_lt s hx y.toNat
  rw [← regionData_single] at hbytes
  obtain ⟨t, e, hexec, hsink, hrefreshed⟩ := exec_refreshes (i := .rfpx x y) hready le_rfl hx le_rfl (pageOf_lt _)
    (congrArg s.transmit hbytes)
  exact ⟨t, e, hexec, hsink, hrefreshed.inside a ((inRectangle_single_iff ..).2 rfl),
    fun b hb => hrefreshed.outside b (mt (inRectangle_single_iff ..).1 hb), hrefreshed.col, hrefreshed.page,
    hrefreshed.idle, hrefreshed.mode⟩

theorem inRectangle_full_iff (a : Nat) : InRectangle 0 127 0 7 a ↔ a < 1024 := by
  constructor
  · rintro ⟨c, p, -, hc, -, hp, rfl⟩
    omega
  · intro ha
    exact ⟨a % 128, a / 128, by omega, by omega, by omega, by omega, by omega⟩

/-- The full window is walked in the order of the framebuffer's addresses (20_memory.md R61). -/
theorem windowAddress_full (k : Nat) : windowAddress 0 127 0 k = k := by
  simp only [windowAddress, fbWidth]
  omega

theorem refreshAllBytes_eq (s : State) :
    refreshAllBytes s = setWindow s.cfg.opc 0 127 0 7 ++ regionData s 0 127 0 7 := by
  rw [regionData_eq_windowBytes, windowBytes, List.map_map]
  simp only [windowAddress_full]
  rfl

/-- Settles O48: RFALL sends the rectangle of all bytes. -/
theorem refreshAllShowsFramebuffer : Obligations.RefreshAllShowsFramebuffer := by
  intro s d hready
  obtain ⟨t, e, hexec, hsink, hrefreshed⟩ := exec_refreshes (i := .rfall) hready (by decide : 0 ≤ 127) (by decide)
    (by decide : 0 ≤ 7) (by decide) (congrArg s.transmit (refreshAllBytes_eq s))
  exact ⟨t, e, hexec, hsink, fun a ha => hrefreshed.inside a ((inRectangle_full_iff a).2 ha),
    fun a ha => hrefreshed.outside a (mt (inRectangle_full_iff a).1 (Nat.not_lt.2 ha)),
    BitVec.eq_of_toNat_eq hrefreshed.col, BitVec.eq_of_toNat_eq hrefreshed.page, hrefreshed.idle, hrefreshed.mode⟩

end Sys2Proof.Machine
end

section
/-! The system and test-access commands (45_system_debug.md R270 to R276): an index byte names a register or a field, or it
is reserved (30_encoding.md R95), and from that what RDB, WRB, RDP and WRP reach. -/

namespace Sys2Proof.Machine

/-! ### Writes by a reserved index (30_encoding.md R95) -/

theorem Ball.setRegister_of_reserved (b : Ball) {r : Nat} (h : 5 ≤ r) (v : Int) : b.setRegister r v = b := by
  obtain ⟨n, rfl⟩ := Nat.exists_eq_add_of_le' h
  rfl

/-- The lane constant has index 2, which is not written (R276). -/
theorem Paddle.setField_of_reserved (q : Paddle) {f : Nat} (h : 2 ≤ f) (v : Int) : q.setField f v = q := by
  obtain ⟨n, rfl⟩ := Nat.exists_eq_add_of_le' h
  rfl

/-! ### The index bytes (R273 to R276) -/

/-- An index byte names one of the five ball registers, or it is reserved. -/
theorem ballIndex_cases (r : Byte) :
    (r = 0 ∨ r = 1 ∨ r = 2 ∨ r = 3 ∨ r = 4) ∨
      (r ≠ 0 ∧ r ≠ 1 ∧ r ≠ 2 ∧ r ≠ 3 ∧ r ≠ 4) ∧ 5 ≤ ballIndex r := by
  rw [ballIndex]
  bv_omega

/-- An index byte names one of the three paddle fields, or it is reserved. -/
theorem padField_cases (f : Byte) :
    (f = 0 ∨ f = 1 ∨ f = 2) ∨ (f ≠ 0 ∧ f ≠ 1 ∧ f ≠ 2) ∧ 3 ≤ padField f := by
  rw [padField]
  bv_omega

/-! ### The ball registers (R273, R274) -/

theorem Ball.register_ballIndex (b : Ball) (r : Byte) :
    b.register (ballIndex r) =
      if r = 0 then b.px else if r = 1 then b.py else if r = 2 then b.vx
      else if r = 3 then b.vy else if r = 4 then b.spin else 0 := by
  obtain (rfl | rfl | rfl | rfl | rfl) | ⟨⟨h0, h1, h2, h3, h4⟩, hreserved⟩ := ballIndex_cases r
  case inr => rw [b.register_of_reserved hreserved, if_neg h0, if_neg h1, if_neg h2, if_neg h3, if_neg h4]
  all_goals rfl

theorem Ball.setRegister_ballIndex (b : Ball) (r : Byte) (v : Int) :
    b.setRegister (ballIndex r) v =
      { px := if r = 0 then v else b.px
        py := if r = 1 then v else b.py
        vx := if r = 2 then v else b.vx
        vy := if r = 3 then v else b.vy
        spin := if r = 4 then v else b.spin } := by
  obtain (rfl | rfl | rfl | rfl | rfl) | ⟨⟨h0, h1, h2, h3, h4⟩, hreserved⟩ := ballIndex_cases r
  case inr => rw [b.setRegister_of_reserved hreserved, if_neg h0, if_neg h1, if_neg h2, if_neg h3, if_neg h4]
  all_goals rfl

/-! ### The paddle fields (R275, R276) -/

theorem State.padRegister_padField (s : State) (p : Side) (f : Byte) :
    s.padRegister p (padField f) =
      if f = 0 then (s.pad p).pos else if f = 1 then (s.pad p).vel
      else if f = 2 then ((laneOf s.cfg p).toNat : Int) else 0 := by
  obtain (rfl | rfl | rfl) | ⟨⟨h0, h1, h2⟩, hreserved⟩ := padField_cases f
  case inr => rw [s.padRegister_of_reserved p hreserved, if_neg h0, if_neg h1, if_neg h2]
  all_goals rfl

theorem Paddle.setField_padField (q : Paddle) (f : Byte) (v : Int) :
    q.setField (padField f) v = ⟨if f = 0 then v else q.pos, if f = 1 then v else q.vel⟩ := by
  obtain (rfl | rfl | rfl) | ⟨⟨h0, h1, -⟩, hreserved⟩ := padField_cases f
  case inr => rw [q.setField_of_reserved (Nat.le_of_succ_le hreserved), if_neg h0, if_neg h1]
  all_goals rfl

/-! ### The commands -/

/-- Settles O55: NOP has no effect, TICKON and TICKOFF write the one bit, and none responds a value. -/
theorem nopTickonTickoff : Obligations.NopTickonTickoff :=
  ⟨encodes_of_opcode .nop rfl fun _ => rfl, encodes_of_opcode .tickon rfl fun _ => rfl,
    encodes_of_opcode .tickoff rfl fun _ => rfl, fun s =>
    ⟨exec_eq_effect_respond .nop s, exec_eq_effect_respond .tickon s, exec_eq_effect_respond .tickoff s⟩⟩

/-- Settles O56: a register of 16 bits is read back from its word, and WRB writes the register its index names. -/
theorem rdbAndWrbReachBallRegisters : Obligations.RdbAndWrbReachBallRegisters := by
  refine ⟨encodes_of_opcode (.rdb 0) rfl fun _ => rfl, encodes_of_opcode (.wrb 0 0) rfl fun _ => rfl, ?_⟩
  intro r imm s v value
  have hread : s.ball.register (ballIndex r) = value := s.ball.register_ballIndex r
  refine ⟨fun hvalue => ⟨signedWord value, toInt_ofInt_of_inWidth (by decide) hvalue, ?rdb⟩, ?wrb⟩
  case rdb =>
    rw [← hread]
    exact exec_eq_effect_respond (.rdb r) s
  case wrb =>
    rw [← s.ball.setRegister_ballIndex r v]
    exact exec_eq_effect_respond (.wrb r imm) s

/-- WRP writes the field its index names of the one paddle. -/
theorem exec_wrp (p : Side) (f : Byte) (imm : Word) (s : State) :
    exec (.wrp p f imm) s =
      .next ((s.setPad p ((s.pad p).setField (padField f) (signedImm s.cfg.width imm))).respond 0x0000) :=
  exec_eq_effect_respond (.wrp p f imm) s

/-- Settles O57: a field of 16 bits is read back from its word, and WRP writes POS or VEL of the one paddle. -/
theorem rdpAndWrpReachPaddleFields : Obligations.RdpAndWrpReachPaddleFields := by
  refine ⟨encodes_of_opcode (.rdp .left 0) rfl fun w => ?rdpOperands,
    encodes_of_opcode (.wrp .left 0 0) rfl fun w => ?wrpOperands, ?_⟩
  case rdpOperands | wrpOperands =>
    rw [← sideField_eq_selectBit]
    rfl
  intro p f imm s v after value
  have hread : s.padRegister p (padField f) = value := s.padRegister_padField p f
  have hwritten : (s.pad p).setField (padField f) (signedImm s.cfg.width imm) = after (s.pad p) :=
    (s.pad p).setField_padField f v
  refine ⟨fun hvalue => ⟨signedWord value, toInt_ofInt_of_inWidth (by decide) hvalue, ?rdp⟩, ?wrp⟩
  case rdp =>
    rw [← hread]
    exact exec_eq_effect_respond (.rdp p f) s
  case wrp =>
    rw [exec_wrp, hwritten]
    cases p <;> rfl

end Sys2Proof.Machine
end

section
/-! Exceptions (60_exceptions.md): there is none, every command, word and step completes (R290), and the tick, the one
asynchronous event, runs the tick sequence or is dropped (R293) and writes only the ball and one score (R295). -/

namespace Sys2Proof.Machine

/-! ### Nothing faults and nothing is refused (R290) -/

theorem exec_completes (i : Instr) (s : State) : ∃ t, exec i s = .next t := ⟨_, exec_eq_effect_respond i s⟩

theorem runCommand_completes (w : Command) (s : State) : ∃ t, runCommand w s = .next t := by
  obtain ⟨i, hrun⟩ := exists_runCommand_eq_exec w
  rw [hrun]
  exact exec_completes i s

/-- A tick or a reset is a total operation on the state, so only a command word could have stopped the step. -/
theorem step_completes (s : State) : ∃ t, step s = .next t := by
  match ha : s.actions with
  | [] => exact ⟨_, step_idle ha⟩
  | .command w :: rest =>
    rw [step_command ha]
    exact runCommand_completes w _
  | .tickRequest :: rest => exact ⟨_, step_tickRequest ha⟩
  | .reset :: rest => exact ⟨_, step_reset ha⟩
  | .resetDuring w sent :: rest => exact ⟨_, step_resetDuring ha⟩

/-- Settles O11: every command is an effect and a response, a word runs as a command, and a step takes one action. -/
theorem noCommandFaultsOrIsRefused : Obligations.NoCommandFaultsOrIsRefused :=
  ⟨⟨nofun⟩, exec_completes, runCommand_completes, step_completes⟩

/-! ### A tick request is accepted or dropped (R293) -/

theorem step_tickRequest_enabled {s : State} {rest : List Action} (h : s.actions = .tickRequest :: rest)
    (hon : s.tickEn = true) : step s = .next (s.take rest).tickSequence := by
  have haccept : acceptTick (s.take rest) = (s.take rest).tickSequence := if_pos hon
  rw [step_tickRequest h, haccept]

/-- A tick sends no serial byte and gives no response: it only executes. -/
theorem phases_tickRequest_enabled {s : State} {rest : List Action} (h : s.actions = .tickRequest :: rest)
    (hon : s.tickEn = true) : s.phases = [.idle, .executing Pins.idle] := by
  have hphases : actionPhases (s.take rest) .tickRequest = [.executing Pins.idle] := if_pos hon
  rw [State.phases_cons h, hphases]

theorem phases_tickRequest_disabled {s : State} {rest : List Action} (h : s.actions = .tickRequest :: rest)
    (hoff : s.tickEn = false) : s.phases = [.idle] := by
  have hphases : actionPhases (s.take rest) .tickRequest = [] := if_neg (by simp [hoff])
  rw [State.phases_cons h, hphases]

/-- The command TICK without its response is the tick sequence, which gives none itself (40_ball_physics.md R150). -/
theorem tickSequence_respond_discarded (s : State) (r : Word) :
    { s.tickSequence.respond r with resps := s.resps } = s.tickSequence := by
  rw [← s.tickSequence_resps]
  rfl

/-- Settles O6: the command TICK and an accepted request run the same tick sequence, and only the command responds. -/
theorem tickRequestRunsOrIsDropped : Obligations.TickRequestRunsOrIsDropped := by
  intro s rest h
  refine ⟨fun hon => ⟨⟨_, exec_eq_effect_respond .tick (s.take rest), ?_⟩, phases_tickRequest_enabled h hon⟩,
    fun hoff => ⟨step_tickRequest_disabled h hoff, phases_tickRequest_disabled h hoff⟩⟩
  rw [step_tickRequest_enabled h hon]
  exact congrArg Host.Outcome.next (tickSequence_respond_discarded (s.take rest) _).symm

/-! ### What an accepted tick writes (R295) -/

theorem State.bounce_eq_setBall (s : State) (p : Side) : ∃ b, s.bounce p = s.setBall b := by
  rcases s.bounce_cases p with ⟨-, e⟩ | ⟨-, e⟩
  · exact ⟨_, e⟩
  · exact ⟨s.ball, e⟩

/-- STEP and the two BOUNCEs write only the ball (40_ball_physics.md R130, R135). -/
theorem State.step_bounces_eq_setBall (s : State) : ∃ b, (s.ballStep.bounce .left).bounce .right = s.setBall b := by
  obtain ⟨b, hleft⟩ := s.ballStep.bounce_eq_setBall .left
  obtain ⟨c, hright⟩ := (s.ballStep.bounce .left).bounce_eq_setBall .right
  exact ⟨c, by rw [hright, hleft]; rfl⟩

/-- WALLS writes the ball, and the score of LEFT only on a right exit, that of RIGHT only on a left exit
(40_ball_physics.md R140). -/
theorem State.walls_writes (s : State) : ∃ ball score0 score1,
    s.walls = { s with ball := ball, score0 := score0, score1 := score1 } ∧
      (score0 ≠ s.score0 → 16384 ≤ s.ball.px ∧ score1 = s.score1) ∧
      (score1 ≠ s.score1 → s.ball.px < 0 ∧ score0 = s.score0) := by
  rcases exitScorer_cases s.ball.px with ⟨hleft, hscorer⟩ | ⟨hright, hscorer⟩ | ⟨-, -, hscorer⟩ <;>
    simp only [State.walls, State.horizontalExit, hscorer, registerPoint_setBall]
  · exact ⟨_, s.score0, _, rfl, fun hne => absurd rfl hne, fun _ => ⟨hleft, rfl⟩⟩
  · exact ⟨_, _, s.score1, rfl, fun _ => ⟨hright, rfl⟩, fun hne => absurd rfl hne⟩
  · exact ⟨_, s.score0, s.score1, rfl, fun hne => absurd rfl hne, fun hne => absurd rfl hne⟩

/-- The tick sequence writes what its WALLS writes: STEP and the two BOUNCEs leave the scores alone (60 R295). -/
theorem State.tickSequence_writes (s : State) : ∃ ball score0 score1,
    s.tickSequence = { s with ball := ball, score0 := score0, score1 := score1 } ∧
      (score0 ≠ s.score0 → 16384 ≤ ((s.ballStep.bounce .left).bounce .right).ball.px ∧ score1 = s.score1) ∧
      (score1 ≠ s.score1 → ((s.ballStep.bounce .left).bounce .right).ball.px < 0 ∧ score0 = s.score0) := by
  obtain ⟨b, hbefore⟩ := s.step_bounces_eq_setBall
  rw [State.tickSequence, hbefore]
  exact (s.setBall b).walls_writes

/-- Settles O28: no command sees the actions to come and the earlier responses, so STEP and the two BOUNCEs as commands
leave the ball where WALLS finds it in the tick. -/
theorem tickTouchesBallAndOneScore : Obligations.TickTouchesBallAndOneScore := by
  intro s rest h hon _
  obtain ⟨ball, score0, score1, hwrites, hscore0, hscore1⟩ := s.tickSequence_writes
  refine ⟨_, _, _, ball, score0, score1, exec_eq_effect_respond .step s, exec_withRun (.bounce .left) s.ballStep ..,
    exec_withRun .., ?_, hscore0, hscore1⟩
  have htake : (s.take rest).tickSequence = s.tickSequence.withRun s.resps rest s.ci :=
    tickSequence_withRun s s.resps rest s.ci
  rw [step_tickRequest_enabled h hon, htake, hwrites]
  rfl

end Sys2Proof.Machine
end

section
/-! Resets (70_reset_and_hazards.md R320): what `rst` leaves of the machine and of the display, alone and in the middle of
a command. -/

namespace Sys2Proof.Machine

/-! ### The display under `rst` (log 14) -/

theorem sinkAfterReset_of_kept {s : State} (h : s.cfg.rstResetsDisplay = false) : sinkAfterReset s = s.sink :=
  if_neg (by simp [h])

theorem sinkAfterReset_of_wired {s : State} (h : s.cfg.rstResetsDisplay = true) :
    sinkAfterReset s = ⟨.tracked Display.reset, s.sink.freeCount⟩ := if_pos h

theorem State.afterReset_of_kept {s : State} (h : s.cfg.rstResetsDisplay = false) :
    s.afterReset = { State.resetWith s.cfg with actions := s.actions, sink := s.sink } := by
  rw [State.afterReset, sinkAfterReset_of_kept h]

theorem State.afterReset_of_wired {s : State} (h : s.cfg.rstResetsDisplay = true) :
    s.afterReset = { State.resetWith s.cfg with
      actions := s.actions, sink := ⟨.tracked Display.reset, s.sink.freeCount⟩ } := by
  rw [State.afterReset, sinkAfterReset_of_wired h]

/-! ### `rst` between two actions -/

/-- Settles O8: the action is taken and `rst` follows, by whether the display is wired to it; its one phase is
`inReset`. -/
theorem resetStartsANewRun : Obligations.ResetStartsANewRun := by
  intro s rest h
  refine ⟨?_, State.phases_cons h, rfl, rfl, rfl, rfl⟩
  rw [step_reset h]
  cases hwired : s.cfg.rstResetsDisplay with
  | false => exact congrArg Host.Outcome.next (State.afterReset_of_kept (s := s.take rest) hwired)
  | true => exact congrArg Host.Outcome.next (State.afterReset_of_wired (s := s.take rest) hwired)

/-! ### `rst` during a command (log 15) -/

/-- The bytes a command sends are what it appends to TXLOG (10_state.md R35). -/
theorem runCommand_txlog (w : Command) (s : State) :
    ∃ t, runCommand w s = .next t ∧ t.txlog = s.txlog ++ bytesSentBy w s := by
  obtain ⟨i, hrun⟩ := exists_runCommand_eq_exec w
  obtain ⟨bytes, htxlog⟩ := effect_txlog s i
  have hnext : runCommand w s = .next ((effect s i).respond (responseWord s i)) := by
    rw [hrun, exec_eq_effect_respond]
  have hbytes : bytesSentBy w s = bytes := by simp [bytesSentBy, hnext, htxlog]
  exact ⟨_, hnext, by rw [State.respond_txlog, htxlog, hbytes]⟩

/-- Of an abandoned command only the display keeps anything: the bytes already sent. -/
theorem State.abandon_of_kept {s : State} (h : s.cfg.rstResetsDisplay = false) (w : Command) (sent : Nat) :
    s.abandon w sent = { State.resetWith s.cfg with
      actions := s.actions, sink := sinkBytes s.cfg.opc s.sink ((bytesSentBy w s).take sent) } :=
  State.afterReset_of_kept (s := { s with sink := _ }) h

/-- Where the display is reset too, no byte shows in it; only the count of free values may have risen (log 12). -/
theorem State.abandon_of_wired {s : State} (h : s.cfg.rstResetsDisplay = true) (w : Command) (sent : Nat) :
    ∃ n, s.abandon w sent = { State.resetWith s.cfg with
      actions := s.actions, sink := ⟨.tracked Display.reset, n⟩ } :=
  ⟨_, State.afterReset_of_wired (s := { s with sink := _ }) h⟩

theorem phases_resetDuring {s : State} {w : Command} {sent : Nat} {rest : List Action}
    (h : s.actions = .resetDuring w sent :: rest) :
    s.phases = .idle ::
      ((Pins.idle :: serialWave ((bytesSentBy w (s.take rest)).take sent)).map .executing ++ [.inReset]) :=
  State.phases_cons h

/-- Settles O9: the bytes are those the command would append to TXLOG if it ran to its end; the reset leaves nothing else
of it, and the phases carry the wave of the bytes sent, from which the display samples them. -/
theorem abandonedCommandReachesDisplayOnly : Obligations.AbandonedCommandReachesDisplayOnly := by
  intro s w sent rest h
  obtain ⟨t, hrun, htxlog⟩ := runCommand_txlog w (s.take rest)
  refine ⟨t, bytesSentBy w (s.take rest), Pins.idle :: serialWave ((bytesSentBy w (s.take rest)).take sent), hrun,
    htxlog, fun hkept => ?_, fun hwired => ?_, phases_resetDuring h, samples_cons_serialWave Pins.idle _⟩
  · rw [step_resetDuring h, State.abandon_of_kept (s := s.take rest) hkept]
    rfl
  · obtain ⟨n, habandon⟩ := State.abandon_of_wired (s := s.take rest) hwired w sent
    exact ⟨n, by rw [step_resetDuring h, habandon]; rfl⟩

end Sys2Proof.Machine
end
